-- ==== Sys2Proof/Word.lean ====
section
/-! DEFINITION. The widths of the block (spec/00_scope.md R10, R12, R13): symbol word, mask, counter, sample. -/

namespace Sys2Proof

/-- A symbol word: 2·W bits, `W = 4` (R100, D1). -/
abbrev Word := BitVec 8

/-- `length_mask`, `code_mask`, `sym_len`, `sym_code`: `W = 4` bits (R38, R39, R101). -/
abbrev Mask := BitVec 4

/-- `t` and `next_t`: `TW = 32` bits, unsigned (R33, R34, D12). -/
abbrev Counter := BitVec 32

/-- One output sample or table entry: `S = 16` bits, two's complement (R13, R43, D15). -/
abbrev Sample := BitVec 16

/-- The 2-bit codes of `el_kind` (R105) and `dec_state` (R37). -/
abbrev Code2 := BitVec 2

end Sys2Proof
end

