-- ==== Sys2Proof/Config.lean ====
section
/-! DEFINITION. The parameters of the build (spec/00_scope.md R10): constants of the hardware that no step writes
(R46, R207). `W`, `S` and `TW` are fixed by the types of Word.lean; `G`, `DUR` and `N` are fixed multiples of `U`
(R11) and are computed in Machine/Operands.lean. The configuration of the test vectors stands here too: it is the
one `State.reset` carries (log entry 1), and no other standing is claimed for it. -/

namespace Sys2Proof

/-- The parameters R10 leaves to the build. `rom` is the waveform table, entry 0 first (R203, R204): a model takes
it as given and assumes nothing of it but P1, P2 and P3. -/
structure Config where
  /-- `U`: the base unit, the dit duration in samples. -/
  u : Nat
  /-- `F`: the idle re-poll constant, the source's `framesPerBuffer` (R226). -/
  f : Nat
  /-- `FS`: the sample rate in Hz; no rule reads it but through the table (D14). -/
  fs : Nat
  /-- `FREQ`: the tone frequency in Hz; no rule reads it but through the table (D14). -/
  freq : Nat
  /-- `DEPTH`: how many words the queue holds (R181). -/
  depth : Nat
  /-- `ROM[0 .. N-1]` (R200). -/
  rom : List Sample
  deriving DecidableEq, Repr

/-- `N`, the number of entries of the table: `DUR[DAH]` = 3·U (R10, R200, conflict C9). -/
def Config.entries (c : Config) : Nat := 3 * c.u

/-- `ceil(log2 n)`, for `n >= 1`. -/
def ceilLog2 (n : Nat) : Nat := if n ≤ 1 then 0 else (n - 1).log2 + 1

/-- `IW`, the width in bits of `wave_idx`: `ceil(log2 N)`, at least 1 (R10, R36, D12). -/
def Config.indexWidth (c : Config) : Nat := max 1 (ceilLog2 c.entries)

/-- `N - 1`, the last index of the table. -/
abbrev Config.lastIndex (c : Config) : Nat := 3 * c.u - 1

/-- What `wave_idx` can hold: the indices `0 .. N-1` and nothing else (R36, R76; spec/93_implementation_defined.md U5: a
model's types have no other value). Its addition is modulo `N` (R264). -/
abbrev WaveIndex (c : Config) : Type := Fin (c.lastIndex + 1)

/-- Entries 0 to 25 of the table of the vector configuration, as spec/95_test_vectors.md V20 prints them. -/
def Config.vectorRise : List Sample :=
  [0, 1029, 2053, 3070, 4075, 5063, 6031, 6976, 7893, 8779, 9630, 10444, 11216] ++
  [11943, 12624, 13255, 13833, 14357, 14825, 15233, 15582, 15869, 16094, 16255, 16352, 16384]

/-- Entries 0 to 49: up to the peak and back down, by the first symmetry of V21. -/
def Config.vectorHalf : List Sample :=
  Config.vectorRise ++ (Config.vectorRise.reverse.drop 1).take 24

/-- The whole table of the vector configuration, 150 entries, by the symmetries of V21. -/
def Config.vectorRom : List Sample :=
  Config.vectorHalf ++ Config.vectorHalf.map (fun v => -v) ++ Config.vectorHalf

/-- The bracketed defaults of R10: U = 50, F = 64, FS = 44100, FREQ = 441, DEPTH = 16, and the table of V20/V21.
DESIGN CHOICE (log entry 1): the spec leaves these OPEN. -/
def Config.vector : Config :=
  { u := 50, f := 64, fs := 44100, freq := 441, depth := 16, rom := Config.vectorRom }

end Sys2Proof
end

