-- ==== Sys2Proof/Syntax.lean ====
section
/-! DEFINITION. Syntax: everything spec/opcode_table.json encodes. Its rows are of three formats: SYMBOL_WORD (the
8-bit word a producer pushes, R100 to R104), ELEMENT_KIND (the 2-bit code the decoder hands to the state machine,
R105) and DEC_STATE (the 2-bit register `dec_state`, R37). The 28 pseudo rows (A to Z, `_`, `~`; R114, R116) are a
producer's names for particular symbol words. One constructor of `Instr` for every row. -/

namespace Sys2Proof

/-- An element kind (R105): what one unit of playback is. -/
inductive Kind where
  | dit
  | dah
  | lgap
  | wgap
  deriving DecidableEq, Repr

/-- The decoder's state (R37). The code 0b11 has no name here, so no state can hold it (R37, U5). -/
inductive DecState where
  | empty
  | tones
  | trail
  deriving DecidableEq, Repr

/-- One constructor per row of spec/opcode_table.json. `code` is the word's `code_mask`, its unexamined bits kept
(R107: the decoder never examines them, but they pass through `sym_code`). -/
inductive Instr where
  /-- LETTER1: `length_mask` = 0b0001 (R104). -/
  | letter1 (code : Mask)
  /-- LETTER2: `length_mask` = 0b0011 (R104). -/
  | letter2 (code : Mask)
  /-- LETTER3: `length_mask` = 0b0111 (R104). -/
  | letter3 (code : Mask)
  /-- LETTER4: `length_mask` = 0b1111 (R104). -/
  | letter4 (code : Mask)
  /-- REST_L: `length_mask` = 0, `code_mask[0]` = 0 (R104, R106). -/
  | restL (code : Mask)
  /-- REST_W: `length_mask` = 0, `code_mask[0]` = 1 (R104, R106). -/
  | restW (code : Mask)
  /-- RESERVED_2: `length_mask` = 0x2 (R108). -/
  | reserved2 (code : Mask)
  /-- RESERVED_4: `length_mask` = 0x4 (R108). -/
  | reserved4 (code : Mask)
  /-- RESERVED_5: `length_mask` = 0x5 (R108). -/
  | reserved5 (code : Mask)
  /-- RESERVED_6: `length_mask` = 0x6 (R108). -/
  | reserved6 (code : Mask)
  /-- RESERVED_8: `length_mask` = 0x8 (R108). -/
  | reserved8 (code : Mask)
  /-- RESERVED_9: `length_mask` = 0x9 (R108). -/
  | reserved9 (code : Mask)
  /-- RESERVED_A: `length_mask` = 0xA (R108). -/
  | reservedA (code : Mask)
  /-- RESERVED_B: `length_mask` = 0xB (R108). -/
  | reservedB (code : Mask)
  /-- RESERVED_C: `length_mask` = 0xC (R108). -/
  | reservedC (code : Mask)
  /-- RESERVED_D: `length_mask` = 0xD (R108). -/
  | reservedD (code : Mask)
  /-- RESERVED_E: `length_mask` = 0xE (R108). -/
  | reservedE (code : Mask)
  /-- DIT, 0b00 (R105). -/
  | dit
  /-- DAH, 0b01 (R105). -/
  | dah
  /-- LGAP, 0b10 (R105). -/
  | lgap
  /-- WGAP, 0b11 (R105). -/
  | wgap
  /-- DEC_EMPTY, 0b00 (R37). -/
  | decEmpty
  /-- DEC_TONES, 0b01 (R37). -/
  | decTones
  /-- DEC_TRAIL, 0b10 (R37). -/
  | decTrail
  /-- The letter A (R114). -/
  | letterA
  /-- The letter B (R114). -/
  | letterB
  /-- The letter C (R114). -/
  | letterC
  /-- The letter D (R114). -/
  | letterD
  /-- The letter E (R114). -/
  | letterE
  /-- The letter F (R114). -/
  | letterF
  /-- The letter G (R114). -/
  | letterG
  /-- The letter H (R114). -/
  | letterH
  /-- The letter I (R114). -/
  | letterI
  /-- The letter J (R114). -/
  | letterJ
  /-- The letter K (R114). -/
  | letterK
  /-- The letter L (R114). -/
  | letterL
  /-- The letter M (R114). -/
  | letterM
  /-- The letter N (R114). -/
  | letterN
  /-- The letter O (R114). -/
  | letterO
  /-- The letter P (R114). -/
  | letterP
  /-- The letter Q (R114). -/
  | letterQ
  /-- The letter R (R114). -/
  | letterR
  /-- The letter S (R114). -/
  | letterS
  /-- The letter T (R114). -/
  | letterT
  /-- The letter U (R114). -/
  | letterU
  /-- The letter V (R114). -/
  | letterV
  /-- The letter W (R114). -/
  | letterW
  /-- The letter X (R114). -/
  | letterX
  /-- The letter Y (R114). -/
  | letterY
  /-- The letter Z (R114). -/
  | letterZ
  /-- `_`: the word-gap rest word (R116). -/
  | markWord
  /-- `~`: the letter-gap rest word (R116). -/
  | markLetter
  deriving DecidableEq, Repr

end Sys2Proof
end

