-- ==== Sys2Proof/WellFormed.lean ====
section
/-! DEFINITION. Well-formedness: of a configuration (spec/00_scope.md R10, spec/43_timing_state_machine.md R241;
spec/93_implementation_defined.md U6: a configuration that breaks a constraint is refused) and of an instruction
(spec/30_encoding.md R104: the class of a rest word fixes `code_mask[0]`). Every check is a decidable proposition with
a name of its own. -/

namespace Sys2Proof

/-- `U >= 1`; with the fixed ratios this is also `G >= 1`, `DUR[k] >= 1` and `N >= 1` (R10, R231). -/
abbrev Config.UnitPositive (c : Config) : Prop := 1 ≤ c.u

/-- `FS > 0` (R10). -/
abbrev Config.RatePositive (c : Config) : Prop := 0 < c.fs

/-- `FREQ > 0` (R10). -/
abbrev Config.FrequencyPositive (c : Config) : Prop := 0 < c.freq

/-- `DEPTH >= 1` (R10). -/
abbrev Config.DepthPositive (c : Config) : Prop := 1 ≤ c.depth

/-- `2^TW > max(DUR[WGAP], F + 1) + G`: no counter wraps (R10, R240). -/
abbrev Config.CountersFit (c : Config) : Prop := max (7 * c.u) (c.f + 1) + c.u < 2 ^ 32

/-- Whether a list has exactly `n` entries, told entry by entry. -/
def hasLength (l : List Sample) (n : Nat) : Bool :=
  match l, n with
  | [], 0 => true
  | [], _ + 1 => false
  | _ :: _, 0 => false
  | _ :: rest, k + 1 => hasLength rest k

/-- What `hasLength` says. -/
theorem hasLength_iff (l : List Sample) (n : Nat) : hasLength l n = true ↔ l.length = n := by
  induction l generalizing n with
  | nil => cases n <;> simp [hasLength]
  | cons _ rest ih => cases n <;> simp [hasLength, ih]

/-- `2^IW >= N` (R10). `IW` is computed from `N`, so no configuration breaks it: `Config.indexFits`. -/
abbrev Config.IndexFits (c : Config) : Prop := c.entries ≤ 2 ^ c.indexWidth

theorem le_two_pow_ceilLog2 (n : Nat) : n ≤ 2 ^ ceilLog2 n := by
  unfold ceilLog2
  split
  · simpa using ‹n ≤ 1›
  · have := Nat.lt_log2_self (n := n - 1)
    omega

/-- The one constraint of R10 that holds by construction; `Config.wellFormed` checks the others. -/
theorem Config.indexFits (c : Config) : c.IndexFits :=
  (le_two_pow_ceilLog2 _).trans (Nat.pow_le_pow_right (by decide) (Nat.le_max_right _ _))

/-- The table has `N = 3·U` entries (R200). -/
abbrev Config.TableLength (c : Config) : Prop := hasLength c.rom (3 * c.u) = true

/-- P1: `ROM[0] = 0` (R204). -/
abbrev Config.TableStartsAtZero (c : Config) : Prop := c.rom[0]? = some 0

/-- P2: `|ROM[i]| <= 2^(S-2)` = 16384 for every entry (R204). -/
abbrev Config.TableBounded (c : Config) : Prop :=
  c.rom.all (fun v => decide (-16384 ≤ v.toInt ∧ v.toInt ≤ 16384)) = true

/-- Every constraint of R10 and the two properties R204 lets a model assume of the table, as a check. -/
def Config.wellFormed (c : Config) : Bool :=
  decide (c.UnitPositive ∧ c.RatePositive ∧ c.FrequencyPositive ∧ c.DepthPositive ∧ c.CountersFit ∧
    c.TableLength ∧ c.TableStartsAtZero ∧ c.TableBounded)

/-- The check as a decidable proposition. -/
abbrev Config.WellFormed (c : Config) : Prop := c.wellFormed = true

/-- What the check says. -/
theorem Config.wellFormed_iff (c : Config) :
    c.WellFormed ↔ c.UnitPositive ∧ c.RatePositive ∧ c.FrequencyPositive ∧ c.DepthPositive ∧ c.CountersFit ∧
      c.rom.length = 3 * c.u ∧ c.TableStartsAtZero ∧ c.TableBounded := by
  unfold Config.WellFormed Config.wellFormed Config.TableLength
  rw [decide_eq_true_iff, hasLength_iff]

/-- Whether an instruction's `code_mask` lies in its class: only the two rest classes fix a bit of it, `code_mask[0]`
(R104, R106). Every other row is free in all of `code_mask`, or has no operand. -/
def Instr.wellFormed (i : Instr) : Bool :=
  match i with
  | .letter1 _ => true
  | .letter2 _ => true
  | .letter3 _ => true
  | .letter4 _ => true
  | .restL code => !code.getLsbD 0
  | .restW code => code.getLsbD 0
  | .reserved2 _ => true
  | .reserved4 _ => true
  | .reserved5 _ => true
  | .reserved6 _ => true
  | .reserved8 _ => true
  | .reserved9 _ => true
  | .reservedA _ => true
  | .reservedB _ => true
  | .reservedC _ => true
  | .reservedD _ => true
  | .reservedE _ => true
  | .dit => true
  | .dah => true
  | .lgap => true
  | .wgap => true
  | .decEmpty => true
  | .decTones => true
  | .decTrail => true
  | .letterA => true
  | .letterB => true
  | .letterC => true
  | .letterD => true
  | .letterE => true
  | .letterF => true
  | .letterG => true
  | .letterH => true
  | .letterI => true
  | .letterJ => true
  | .letterK => true
  | .letterL => true
  | .letterM => true
  | .letterN => true
  | .letterO => true
  | .letterP => true
  | .letterQ => true
  | .letterR => true
  | .letterS => true
  | .letterT => true
  | .letterU => true
  | .letterV => true
  | .letterW => true
  | .letterX => true
  | .letterY => true
  | .letterZ => true
  | .markWord => true
  | .markLetter => true

/-- The check as a decidable proposition. -/
abbrev Instr.WellFormed (i : Instr) : Prop := i.wellFormed = true

end Sys2Proof
end

