-- ==== Sys2Proof/Decode.lean ====
section
/-! DEFINITION. Decode and encode (spec/30_encoding.md R100 to R118, spec/10_state.md R37). A code stands in one of
three places, and the place decides its format: a symbol word in the queue, an element kind on `el_kind`, a decoder
state in `dec_state`. The pseudo rows (letters and rest marks) have no encoding of their own: they are other names of
symbol words, and the decoder reads such a word by its class row (spec/opcode_table.json, the rows' own notes; log
entry 11). -/

namespace Sys2Proof

/-- `length_mask`: bits 3..0 of the word (R100, D2). -/
def lengthMask (w : Word) : Mask := w.extractLsb' 0 4

/-- `code_mask`: bits 7..4 of the word (R100, D2). -/
def codeMask (w : Word) : Mask := w.extractLsb' 4 4

/-- The word with the given masks: `{code_mask, length_mask}` (R12, R100). -/
def mkWord (code len : Mask) : Word := code ++ len

/-- The element-kind code (R105, D8). -/
def kindCode (k : Kind) : Code2 :=
  match k with
  | .dit => 0b00
  | .dah => 0b01
  | .lgap => 0b10
  | .wgap => 0b11

/-- The code of a decoder state (R37). -/
def decStateCode (d : DecState) : Code2 :=
  match d with
  | .empty => 0b00
  | .tones => 0b01
  | .trail => 0b10

/-- A code together with the place it stands in. -/
inductive Encoded where
  /-- A symbol word in the queue (R100). -/
  | word (w : Word)
  /-- An element kind on `el_kind` (R105). -/
  | kind (k : Code2)
  /-- A decoder state in `dec_state` (R37). -/
  | dec (d : Code2)
  deriving DecidableEq, Repr

/-- Why a code is rejected. -/
inductive DecodeError where
  /-- `dec_state` = 0b11, the one unused code of the block (R37, R109, U5). -/
  | unusedDecState
  /-- No byte is there to hold a symbol word. -/
  | noWord
  deriving DecidableEq, Repr

/-- The class row of a symbol word, by `length_mask` bit 3 down to bit 0, and for a zero mask by `code_mask[0]`
(R104, R106, R108). Total: every word has a row. -/
def decodeWord (w : Word) : Instr :=
  match (lengthMask w).getLsbD 3, (lengthMask w).getLsbD 2, (lengthMask w).getLsbD 1, (lengthMask w).getLsbD 0 with
  | false, false, false, false => if (codeMask w).getLsbD 0 then .restW (codeMask w) else .restL (codeMask w)
  | false, false, false, true => .letter1 (codeMask w)
  | false, false, true, false => .reserved2 (codeMask w)
  | false, false, true, true => .letter2 (codeMask w)
  | false, true, false, false => .reserved4 (codeMask w)
  | false, true, false, true => .reserved5 (codeMask w)
  | false, true, true, false => .reserved6 (codeMask w)
  | false, true, true, true => .letter3 (codeMask w)
  | true, false, false, false => .reserved8 (codeMask w)
  | true, false, false, true => .reserved9 (codeMask w)
  | true, false, true, false => .reservedA (codeMask w)
  | true, false, true, true => .reservedB (codeMask w)
  | true, true, false, false => .reservedC (codeMask w)
  | true, true, false, true => .reservedD (codeMask w)
  | true, true, true, false => .reservedE (codeMask w)
  | true, true, true, true => .letter4 (codeMask w)

/-- The element kind of a code on `el_kind`; no code is unused (R105, R109). -/
def decodeKind (k : Code2) : Instr :=
  match k.getLsbD 1, k.getLsbD 0 with
  | false, false => .dit
  | false, true => .dah
  | true, false => .lgap
  | true, true => .wgap

/-- The decoder state of a code in `dec_state`; 0b11 is rejected by name (R37, U5). -/
def decodeDecState (d : Code2) : Except DecodeError Instr :=
  match d.getLsbD 1, d.getLsbD 0 with
  | false, false => .ok .decEmpty
  | false, true => .ok .decTones
  | true, false => .ok .decTrail
  | true, true => .error .unusedDecState

/-- Decoding by place; total. -/
def decode (c : Encoded) : Except DecodeError Instr :=
  match c with
  | .word w => .ok (decodeWord w)
  | .kind k => .ok (decodeKind k)
  | .dec d => decodeDecState d

/-- Decoding a stream of bytes as the queue holds them, one word a byte (R110): the first instruction and the rest. -/
def decodeBytes (bytes : List (BitVec 8)) : Except DecodeError (Instr × List (BitVec 8)) :=
  match bytes with
  | [] => .error .noWord
  | w :: rest => .ok (decodeWord w, rest)

/-- The code of an instruction (R100, R103 to R105, R108, R37). A pseudo row is encoded as the word R114 and R116
print for it. -/
def encode (i : Instr) : Encoded :=
  match i with
  | .letter1 code => .word (mkWord code 0b0001)
  | .letter2 code => .word (mkWord code 0b0011)
  | .letter3 code => .word (mkWord code 0b0111)
  | .letter4 code => .word (mkWord code 0b1111)
  | .restL code => .word (mkWord code 0b0000)
  | .restW code => .word (mkWord code 0b0000)
  | .reserved2 code => .word (mkWord code 0b0010)
  | .reserved4 code => .word (mkWord code 0b0100)
  | .reserved5 code => .word (mkWord code 0b0101)
  | .reserved6 code => .word (mkWord code 0b0110)
  | .reserved8 code => .word (mkWord code 0b1000)
  | .reserved9 code => .word (mkWord code 0b1001)
  | .reservedA code => .word (mkWord code 0b1010)
  | .reservedB code => .word (mkWord code 0b1011)
  | .reservedC code => .word (mkWord code 0b1100)
  | .reservedD code => .word (mkWord code 0b1101)
  | .reservedE code => .word (mkWord code 0b1110)
  | .dit => .kind 0b00
  | .dah => .kind 0b01
  | .lgap => .kind 0b10
  | .wgap => .kind 0b11
  | .decEmpty => .dec 0b00
  | .decTones => .dec 0b01
  | .decTrail => .dec 0b10
  | .letterA => .word 0x23
  | .letterB => .word 0x1F
  | .letterC => .word 0x5F
  | .letterD => .word 0x17
  | .letterE => .word 0x01
  | .letterF => .word 0x4F
  | .letterG => .word 0x37
  | .letterH => .word 0x0F
  | .letterI => .word 0x03
  | .letterJ => .word 0xEF
  | .letterK => .word 0x57
  | .letterL => .word 0x2F
  | .letterM => .word 0x33
  | .letterN => .word 0x13
  | .letterO => .word 0x77
  | .letterP => .word 0x6F
  | .letterQ => .word 0xBF
  | .letterR => .word 0x27
  | .letterS => .word 0x07
  | .letterT => .word 0x11
  | .letterU => .word 0x47
  | .letterV => .word 0x8F
  | .letterW => .word 0x67
  | .letterX => .word 0x9F
  | .letterY => .word 0xDF
  | .letterZ => .word 0x3F
  | .markWord => .word 0x10
  | .markLetter => .word 0x00

/-- The row the decoder reads where this row is only another name of a symbol word: a letter or a rest mark stands for
the class row of its word, every other row for itself (R114, R116). -/
def canonical (i : Instr) : Instr :=
  match i with
  | .letter1 code => .letter1 code
  | .letter2 code => .letter2 code
  | .letter3 code => .letter3 code
  | .letter4 code => .letter4 code
  | .restL code => .restL code
  | .restW code => .restW code
  | .reserved2 code => .reserved2 code
  | .reserved4 code => .reserved4 code
  | .reserved5 code => .reserved5 code
  | .reserved6 code => .reserved6 code
  | .reserved8 code => .reserved8 code
  | .reserved9 code => .reserved9 code
  | .reservedA code => .reservedA code
  | .reservedB code => .reservedB code
  | .reservedC code => .reservedC code
  | .reservedD code => .reservedD code
  | .reservedE code => .reservedE code
  | .dit => .dit
  | .dah => .dah
  | .lgap => .lgap
  | .wgap => .wgap
  | .decEmpty => .decEmpty
  | .decTones => .decTones
  | .decTrail => .decTrail
  | .letterA => .letter2 0b0010
  | .letterB => .letter4 0b0001
  | .letterC => .letter4 0b0101
  | .letterD => .letter3 0b0001
  | .letterE => .letter1 0b0000
  | .letterF => .letter4 0b0100
  | .letterG => .letter3 0b0011
  | .letterH => .letter4 0b0000
  | .letterI => .letter2 0b0000
  | .letterJ => .letter4 0b1110
  | .letterK => .letter3 0b0101
  | .letterL => .letter4 0b0010
  | .letterM => .letter2 0b0011
  | .letterN => .letter2 0b0001
  | .letterO => .letter3 0b0111
  | .letterP => .letter4 0b0110
  | .letterQ => .letter4 0b1011
  | .letterR => .letter3 0b0010
  | .letterS => .letter3 0b0000
  | .letterT => .letter1 0b0001
  | .letterU => .letter3 0b0100
  | .letterV => .letter4 0b1000
  | .letterW => .letter3 0b0110
  | .letterX => .letter4 0b1001
  | .letterY => .letter4 0b1101
  | .letterZ => .letter4 0b0011
  | .markWord => .restW 0b0001
  | .markLetter => .restL 0b0000

/-- R116, the notation for programs: the pseudo row a character stands for; any other character stands for none. -/
def instrOfChar (ch : Char) : Option Instr :=
  match ch with
  | 'A' => some .letterA
  | 'B' => some .letterB
  | 'C' => some .letterC
  | 'D' => some .letterD
  | 'E' => some .letterE
  | 'F' => some .letterF
  | 'G' => some .letterG
  | 'H' => some .letterH
  | 'I' => some .letterI
  | 'J' => some .letterJ
  | 'K' => some .letterK
  | 'L' => some .letterL
  | 'M' => some .letterM
  | 'N' => some .letterN
  | 'O' => some .letterO
  | 'P' => some .letterP
  | 'Q' => some .letterQ
  | 'R' => some .letterR
  | 'S' => some .letterS
  | 'T' => some .letterT
  | 'U' => some .letterU
  | 'V' => some .letterV
  | 'W' => some .letterW
  | 'X' => some .letterX
  | 'Y' => some .letterY
  | 'Z' => some .letterZ
  | '_' => some .markWord
  | '~' => some .markLetter
  | _ => none

/-- The producer's lookup (R112): the word a character stands for, absent for an unmapped one. The domain R112 gives is the
letters (R114). That the two rest marks of the notation (R116, D24) have their words here too is the model's choice: which
key or symbol, if any, yields a rest word is open (R117, N6; log entry 20). DESIGN CHOICE. -/
def lookup (ch : Char) : Option Word :=
  match instrOfChar ch with
  | none => none
  | some i =>
    match encode i with
    | .word w => some w
    | .kind _ => none
    | .dec _ => none

/-- R116, the pattern characters: `.` is a dit, `-` a dah (R114). -/
def toneOfChar (ch : Char) : Option Kind :=
  match ch with
  | '.' => some .dit
  | '-' => some .dah
  | _ => none

/-- `code_mask` of a pattern: element k in bit k, 1 for a dah, the unexamined bits 0 (R101, R102, R107). -/
def codeOfPattern (pattern : List Kind) : Mask :=
  match pattern with
  | [] => 0
  | k :: rest => (if k = .dah then 1 else 0) ||| (codeOfPattern rest <<< 1)

/-- `length_mask` of a pattern: its n low bits, `2^n - 1` (R103). -/
def lengthOfPattern (pattern : List Kind) : Mask :=
  match pattern with
  | [] => 0
  | _ :: rest => 1 ||| (lengthOfPattern rest <<< 1)

/-- The word R100 to R103 give a pattern of 1 to W elements; no other pattern has one (R103). -/
def patternWord (pattern : List Kind) : Option Word :=
  if 1 ≤ pattern.length ∧ pattern.length ≤ 4 then some (mkWord (codeOfPattern pattern) (lengthOfPattern pattern))
  else none

/-- R116: the words of a program, left to right; `run` is the pattern read so far. A longest run of `.` and `-` is one
pattern and one word; every other character is a letter or rest mark with its word, or pushes nothing (R113; log
entry 19). -/
def assembleFrom (run : List Kind) (program : List Char) : List Word :=
  match program with
  | [] => (patternWord run).toList
  | ch :: rest =>
    match toneOfChar ch with
    | some k => assembleFrom (run ++ [k]) rest
    | none => (patternWord run).toList ++ (lookup ch).toList ++ assembleFrom [] rest

/-- The words of a program (R116). -/
def assemble (program : List Char) : List Word := assembleFrom [] program

/-- The instruction the decoder reads from the bits `w` of an opcode-table row of `nbits` bits. An 8-bit code is a
symbol word. ELEMENT_KIND and DEC_STATE share the 2-bit codes and only the place tells them apart; a bare 2-bit code is
read as an element kind (log entry 12). -/
def decodeTableWord (nbits w : Nat) : Option Instr :=
  if nbits = 8 ∧ w < 2 ^ 8 then some (decodeWord (BitVec.ofNat 8 w))
  else if nbits = 2 ∧ w < 2 ^ 2 then some (decodeKind (BitVec.ofNat 2 w))
  else none

end Sys2Proof
end

