-- ==== Sys2Proof/Machine/State.lean ====
section
/-! DEFINITION. The whole state of the block (spec/10_state.md R30 to R44) as plain data, beside the build's parameters
(R10, R20) and the two inputs R20 names: the words the producer pushes, and the interleaving of pushes with ticks.
INVENTORY.md lists every field with its width, rule and reset value. -/

namespace Sys2Proof.Machine

/-- The queue memory `mem` of R41: (slot, word) pairs, slots strictly rising. A slot that is not listed has never been
written and has no value (R52, U7; log entry 2). -/
abbrev Memory := List Host.Cell

/-- The realisation of the queue (R41, R42): the memory, the two pointers, and the copy of each pointer that the other
side sees. Pointers count modulo `2·DEPTH`, so that a full queue and an empty one differ (log entry 10). -/
structure Ring where
  /-- `mem[0 .. DEPTH-1]`. -/
  mem : Memory
  /-- `wr_ptr`, written only by the producer side. -/
  wrPtr : Nat
  /-- `rd_ptr`, written only by the render side. -/
  rdPtr : Nat
  /-- The copy of `wr_ptr` the render side sees. -/
  wrPtrSeen : Nat
  /-- The copy of `rd_ptr` the producer side sees. -/
  rdPtrSeen : Nat
  deriving DecidableEq, Repr

/-- What the host of the block may do against its duties (R294; spec/93_implementation_defined.md). -/
inductive Misuse where
  /-- A second producer drives the write port (U2, R327). -/
  | secondProducer
  /-- The producer changes `wr_data` while it waits for `wr_ready` (U2, R326). -/
  | unsteadyData
  /-- A tick less than four `clk` cycles after the last (U3, R340). -/
  | crowdedTick
  /-- One side of the queue is reset without the other (U4, R322). -/
  | loneReset
  deriving DecidableEq, Repr

/-- One turn of the interleaving (R16, R24, R83): which of the atomic steps comes next. -/
inductive Turn where
  /-- A `clk` cycle with `sample_tick` = 1: the render side's step TICK (R261, R266). -/
  | tick
  /-- A granting edge of `wr_clk`, if the producer has a word to push: the step PUSH (R172, R173). -/
  | push
  /-- A `clk` cycle with `sample_tick` = 0 and no pulse (R269). -/
  | quiet
  /-- Both resets asserted (R320, R322), with `sample_tick` and `wr_valid` at the given levels in that cycle (R321). -/
  | reset (sampleTick wrValid : Bool)
  /-- The host breaks one of its duties (R294). -/
  | misuse (m : Misuse)
  deriving DecidableEq, Repr

/-- The state. `t` to `q` and the four output registers are R44's table; `ring` is the realisation of `q` (R41, R42),
carried in lockstep with it. `cfg`, `toPush` and `turns` are not state of the block but what R20 makes
the step relation take besides: parameters and inputs (log entries 1 and 3). -/
structure State where
  /-- The parameters of the build (R10); no step writes them. -/
  cfg : Config
  /-- `t` (R33): the offset of the next tick within the active element. -/
  t : Counter
  /-- `next_t` (R34): the duration of the active element, or `F + 1` while idle. -/
  nextT : Counter
  /-- `emit` (R35): the tone is output. -/
  emit : Bool
  /-- `wave_idx` (R36): the read index into the table, `0 .. N-1`; no other value can stand here (R76, U5). -/
  waveIdx : WaveIndex cfg
  /-- `dec_state` (R37). -/
  decState : DecState
  /-- `sym_len` (R38): what is left of the held word's `length_mask`. -/
  symLen : Mask
  /-- `sym_code` (R39): what is left of the held word's `code_mask`. -/
  symCode : Mask
  /-- `q` (R40): the queue, head first. -/
  q : List Word
  /-- The realisation of `q` (R41, R42). -/
  ring : Ring
  /-- `dac_left` (R43). -/
  dacLeft : Sample
  /-- `dac_right` (R43). -/
  dacRight : Sample
  /-- `dac_valid` (R43, log entry 6): the last render-side cycle presented a new sample. -/
  dacValid : Bool
  /-- `emit_o` (R43): the copy of `emit` after the last tick. -/
  emitO : Bool
  /-- Input (R20): the words the producer has still to push, in order; the first one stands on `wr_data` (R326). -/
  toPush : List Word
  /-- Input (R20): the interleaving still to come; when it is used up, ticks go on (R335, log entry 3). -/
  turns : List Turn
  deriving DecidableEq, Repr

/-- The block raises no exception and has no cause codes (R290, R299): there is no fault, so the type has no
constructor. -/
inductive Fault where
  deriving DecidableEq, Repr

/-- Why the model gives no next state. None of these is a behaviour of the hardware's instructions: each is a
situation spec/93_implementation_defined.md puts outside the model. -/
inductive Refusal where
  /-- Raised by `exec` for an instruction with no meaning; no arm raises it in this model. Safe. -/
  | notModelled (mnemonic : String)
  /-- Raised by `step`, and by a tick that finds no entry at its index: the configuration breaks a constraint of R10 or
  its table is not `N` entries (U6). Safe: the spec promises nothing there. -/
  | misconfigured
  /-- Raised by `step` on a turn in which the host breaks a duty (U2, U3, U4; R294). Safe: outside the spec. -/
  | hostMisuse (m : Misuse)
  deriving DecidableEq, Repr

/-- What a step of this machine answers. -/
abbrev Outcome := Host.Outcome State Fault Refusal

/-- The realisation right after reset: both pointers and both copies 0; nothing has been written (R41, R42, R320). -/
def Ring.reset : Ring := { mem := [], wrPtr := 0, rdPtr := 0, wrPtrSeen := 0, rdPtrSeen := 0 }

/-- Every register at its reset value (R44, R320), for a given build; no word offered, no turn scheduled. -/
def State.resetOf (c : Config) : State :=
  { cfg := c
    t := 0
    nextT := 0
    emit := false
    waveIdx := 0
    decState := .empty
    symLen := 0
    symCode := 0
    q := []
    ring := Ring.reset
    dacLeft := 0
    dacRight := 0
    dacValid := false
    emitO := false
    toPush := []
    turns := [] }

/-- The block right after reset, in the configuration of the test vectors (R320; log entry 1). -/
def State.reset : State := State.resetOf Config.vector

end Sys2Proof.Machine
end

