-- ==== Sys2Proof/Machine/Operands.lean ====
section
/-! DEFINITION. Operands: the values the operations read. Durations and gap (spec/43_timing_state_machine.md R232,
spec/20_memory.md R71), the table (spec/42_waveform_rom.md R200, R201), and the element kind a code mask selects
(spec/40_symbol_decoder.md R143, R145, R146). -/

namespace Sys2Proof.Machine

/-- `DUR[kind]` in samples: 1, 3, 3 and 7 units (R10, R232, conflict C1). -/
def durTicks (c : Config) (k : Kind) : Nat :=
  match k with
  | .dit => c.u
  | .dah => 3 * c.u
  | .lgap => 3 * c.u
  | .wgap => 7 * c.u

/-- `DUR[kind]` as the duration table holds it, TW bits (R70, R71). -/
def dur (c : Config) (k : Kind) : Counter := BitVec.ofNat 32 (durTicks c k)

/-- `G`, the inter-element gap: 1 unit (R10, R232). -/
def gap (c : Config) : Counter := BitVec.ofNat 32 c.u

/-- `F + 1`, what IDLE_POLL loads (R226). -/
def idleSpan (c : Config) : Counter := BitVec.ofNat 32 (c.f + 1)

/-- `N`, the number of table entries: `DUR[DAH]` (R200, conflict C9). -/
def tableLen (c : Config) : Nat := durTicks c .dah

/-- The index as the `IW` bits of `rom_addr` carry it (R262, R36). -/
def romAddr {c : Config} (idx : WaveIndex c) : BitVec c.indexWidth := BitVec.ofNat c.indexWidth idx.val

/-- `ROM[i]` (R201): one entry; there is none outside the table (R75, R76). Reading has no effect (R78). -/
def romRead (c : Config) (i : Nat) : Option Sample := c.rom[i]?

/-- The kind of the next tone: bit 0 of the code mask, 1 for a dah (R101, R143, R146). -/
def toneOf (code : Mask) : Kind := if code.getLsbD 0 then .dah else .dit

/-- The kind of a rest word's one gap: bit 0 of the code mask, 1 for a word gap (R106, R145). -/
def restOf (code : Mask) : Kind := if code.getLsbD 0 then .wgap else .lgap

end Sys2Proof.Machine
end

