-- ==== Sys2Proof/Machine/Flags.lean ====
section
/-! DEFINITION. The one-bit conditions of the block (spec/10_state.md R45): `emit` after an element start, the two
comparisons of the state machine (spec/43_timing_state_machine.md R222), and the queue's two signals
(spec/41_sequencer_fifo.md R174, R176). There are no condition codes. -/

namespace Sys2Proof.Machine

/-- `emit` after an element start: the complement of bit 1 of the kind's code (R105, R225). -/
def kindEmits (k : Kind) : Bool := !(kindCode k).getLsbD 1

/-- The source's rule 1 fires: `j == next_t` (R222, R223). -/
def endToneDue (s : State) : Bool := s.t == s.nextT

/-- The comparison of the source's rule 2: `j == next_t + G`, on TW bits (R222, R224, R240). -/
def gapOver (s : State) : Bool := s.t == s.nextT + gap s.cfg

/-- Which transition a tick takes; rule 1 is tested before rule 2 (R222, R231). -/
inductive Branch where
  | endTone
  | boundary
  | hold
  deriving DecidableEq, Repr

/-- TSM_STEP's dispatch (R222). -/
def branch (s : State) : Branch :=
  if endToneDue s then .endTone else if gapOver s then .boundary else .hold

/-- `rd_empty` (R176), exact as in V11. -/
def rdEmpty (s : State) : Bool := s.q.isEmpty

/-- `rd_data` (R176): the head word; no value while the queue is empty (U8). -/
def rdData (s : State) : Option Word := s.q.head?

/-- `wr_ready` (R174), exact as in V11, and 0 in a cycle with `wr_rst` = 1 (R321). -/
def wrReady (wrRst : Bool) (s : State) : Bool := !wrRst && decide (s.q.length < s.cfg.depth)

end Sys2Proof.Machine
end

