-- ==== Sys2Proof/Machine/Ring.lean ====
section
/-! DEFINITION. The queue memory and the realisation of the queue (spec/10_state.md R41, R42, spec/20_memory.md R79).
The behaviour of the block is stated over `q` (R40); this ring runs beside it, and Safety.lean's `RingHoldsQueue` says
that it holds the same words. -/

namespace Sys2Proof.Machine

/-- The word in a slot; a slot that was never written has none (U7). -/
def Memory.read (m : Memory) (slot : Nat) : Option Word :=
  match m with
  | [] => none
  | (a, w) :: rest => if a = slot then some w else Memory.read rest slot

/-- Writing a slot, the pairs kept in rising order. -/
def Memory.write (m : Memory) (slot : Nat) (w : Word) : Memory :=
  match m with
  | [] => [(slot, w)]
  | (a, v) :: rest =>
    if slot < a then (slot, w) :: (a, v) :: rest
    else if slot = a then (slot, w) :: rest
    else (a, v) :: Memory.write rest slot w

/-- The canonical form: slots strictly rising. (An unlisted slot has no value, so no entry can equal it.) -/
def Memory.wf (m : Memory) : Bool :=
  match m with
  | [] => true
  | (a, _) :: rest => rest.all (fun c => decide (a < c.1)) && Memory.wf rest

/-- The producer side writes `mem[wr_ptr]` before it advances `wr_ptr` (R41, R79). The push step is the moment the word
becomes visible, so the render side's copy moves with the pointer (R178). -/
def Ring.push (r : Ring) (depth : Nat) (w : Word) : Ring :=
  { r with
    mem := r.mem.write (r.wrPtr % depth) w
    wrPtr := (r.wrPtr + 1) % (2 * depth)
    wrPtrSeen := (r.wrPtr + 1) % (2 * depth) }

/-- The render side advances `rd_ptr` over the head (R41, R79); the flags are exact (V11), so the producer's copy
moves with the pointer. -/
def Ring.pop (r : Ring) (depth : Nat) : Ring :=
  { r with
    rdPtr := (r.rdPtr + 1) % (2 * depth)
    rdPtrSeen := (r.rdPtr + 1) % (2 * depth) }

/-- How many words lie between the pointers: `(wr_ptr - rd_ptr) mod 2·DEPTH` (R41). -/
def Ring.length (r : Ring) (depth : Nat) : Nat := (r.wrPtr + (2 * depth - r.rdPtr)) % (2 * depth)

/-- The words `mem[rd_ptr mod DEPTH]`, `mem[(rd_ptr + 1) mod DEPTH]`, ... up to `wr_ptr` (R41). -/
def Ring.words (r : Ring) (depth : Nat) : List (Option Word) :=
  (List.range (r.length depth)).map (fun k => r.mem.read ((r.rdPtr + k) % depth))

/-- Reset: both pointers and both copies 0; the memory is not touched (R320). -/
def Ring.clear (r : Ring) : Ring := { Ring.reset with mem := r.mem }

end Sys2Proof.Machine
end

