-- ==== Sys2Proof/Machine/Ops.lean ====
section
/-! DEFINITION. The named operations (spec/00_scope.md R21): queue, decoder, state machine, sample generator, reset. Each
is written from its rule's pseudocode. There is no exception to take and none to return from (spec/60_exceptions.md
R290, R299, R300). -/

namespace Sys2Proof.Machine

/-! ### sequencer_fifo (spec/41_sequencer_fifo.md) -/

/-- `fifo_push(w)` (R172): `q <- q ++ [w]`. Its caller has checked that there is room. -/
def fifoPush (w : Word) (s : State) : State :=
  { s with q := s.q ++ [w], ring := s.ring.push s.cfg.depth w }

/-- The effect of a successful pop (R175): `q <- tail(q)`. -/
def fifoDrop (s : State) : State :=
  { s with q := s.q.tail, ring := s.ring.pop s.cfg.depth }

/-- `fifo_try_pop()` (R175): the head and the queue without it, or nothing at once. -/
def fifoTryPop (s : State) : Option Word × State :=
  match s.q with
  | [] => (none, s)
  | w :: _ => (some w, fifoDrop s)

/-- The producer's turn (R172, R173): with a word to push and room it is pushed; into a full queue nothing is
transferred and the producer keeps its word; with no word nothing happens. -/
def producerTurn (s : State) : State :=
  match s.toPush with
  | [] => s
  | w :: rest => if wrReady false s then { fifoPush w s with toPush := rest } else s

/-! ### morse_symbol_decoder (spec/40_symbol_decoder.md) -/

/-- The decoder's registers after one tone has been handed out of the masks `len`, `code` (R143, R146): both shifted
right by one, and TRAIL when nothing of the length mask is left. -/
def shiftMasks (len code : Mask) (s : State) : State :=
  { s with
    symLen := len >>> 1
    symCode := code >>> 1
    decState := if len >>> 1 = 0 then .trail else .tones }

/-- After the closing letter gap the decoder is EMPTY (R147). -/
def closeLetter (s : State) : State := { s with decState := .empty }

/-- What a popped word yields first, and the decoder after it: a rest word its one gap (R145), a letter word its first
tone (R146). -/
def openWord (w : Word) (s : State) : Kind × State :=
  if lengthMask w = 0 then (restOf (codeMask w), s)
  else (toneOf (codeMask w), shiftMasks (lengthMask w) (codeMask w) s)

/-- `next_element()` (R142): the five cases R143 to R147. -/
def nextElement (s : State) : Option Kind × State :=
  match s.decState with
  | .tones => (some (toneOf s.symCode), shiftMasks s.symLen s.symCode s)
  | .trail => (some .lgap, closeLetter s)
  | .empty =>
    match fifoTryPop s with
    | (none, s') => (none, s')
    | (some w, s') => (some (openWord w s').1, (openWord w s').2)

/-! ### timing_state_machine (spec/43_timing_state_machine.md) -/

/-- END_TONE (R223). -/
def endTone (s : State) : State := { s with emit := false, t := s.t + 1 }

/-- HOLD (R230). -/
def hold (s : State) : State := { s with t := s.t + 1 }

/-- ELEMENT_START (R225). -/
def elementStart (k : Kind) (s : State) : State :=
  { s with nextT := dur s.cfg k, emit := kindEmits k, t := 1 }

/-- IDLE_POLL (R226). -/
def idlePoll (s : State) : State := { s with nextT := idleSpan s.cfg, emit := false, t := 1 }

/-! ### sample_generator (spec/44_sample_generator.md) -/

/-- INDEX_CLEAR (R263): the index used on this tick. -/
def readIndex (elStart : Bool) (s : State) : WaveIndex s.cfg := if elStart then 0 else s.waveIdx

/-- The index after `idx` (R264): `(idx + 1) mod N`. -/
def nextIndex {c : Config} (idx : WaveIndex c) : WaveIndex c := if idx.val + 1 = tableLen c then 0 else idx + 1

/-- SAMPLE_OUT and INDEX_ADVANCE (R264, R265), with `entry` read from the table at `idx`: the entry if the tone is on,
else all bits clear (D31). -/
def present (s : State) (idx : WaveIndex s.cfg) (entry : Sample) : State :=
  { s with
    dacLeft := if s.emit then entry else 0
    dacRight := if s.emit then entry else 0
    emitO := s.emit
    dacValid := true
    waveIdx := nextIndex idx }

/-- Steps 2 to 4 of a tick (R266), after the state machine's step: the table is read at the index of this tick. -/
def generate (elStart : Bool) (s : State) : Outcome :=
  match romRead s.cfg (readIndex elStart s).val with
  | none => .refused .misconfigured
  | some entry => .next (present s (readIndex elStart s) entry)

/-! ### boundary ticks (R224) -/

/-- The rest of a boundary tick on which the decoder answered `some k` (R224, R225, R266). -/
def startTick (k : Kind) (s : State) : Outcome := generate true (elementStart k s)

/-- The rest of a boundary tick on which the decoder answered `none` (R224, R226, R266). -/
def idleTick (s : State) : Outcome := generate false (idlePoll s)

/-- A boundary tick that plays a letter word's first tone out of the given masks (R146, R225). -/
def toneTick (len code : Mask) (s : State) : Outcome := startTick (toneOf code) (shiftMasks len code s)

/-- A boundary tick that plays a rest word (R145, R225). -/
def restTick (code : Mask) (s : State) : Outcome := startTick (restOf code) s

/-- A boundary tick that plays a word just popped (R145, R146, R225). -/
def wordTick (w : Word) (s : State) : Outcome :=
  startTick (openWord w s).1 (openWord w s).2

/-! ### reset and quiet cycles -/

/-- Both resets asserted (R320 to R322): every register of R44 at its reset value; the build's constants, the queue
memory and the inputs are not touched. -/
def resetAll (s : State) : State :=
  { State.resetOf s.cfg with ring := s.ring.clear, toPush := s.toPush, turns := s.turns }

/-- A cycle without a tick (R269): the pulse of `dac_valid` is over, everything else holds. -/
def quietCycle (s : State) : State := { s with dacValid := false }

end Sys2Proof.Machine
end

