-- ==== Sys2Proof/Machine/DecoderStates.lean ====
section
/-! DEFINITION. The meanings of the decoder's states (spec/10_state.md R37; spec/40_symbol_decoder.md R142 to R147): the boundary tick
on which the state machine asks a decoder whose `dec_state` holds that code. -/

namespace Sys2Proof.Machine

/-- DEC_EMPTY (R142, R144): nothing is held, so the queue is asked; an empty queue makes the block idle, a word is
opened and its first element starts. -/
def execDecEmpty (s : State) : Outcome :=
  match fifoTryPop s with
  | (none, s') => idleTick s'
  | (some w, s') => wordTick w s'

/-- DEC_TONES (R143): the next tone of the held letter starts. -/
def execDecTones (s : State) : Outcome := toneTick s.symLen s.symCode s

/-- DEC_TRAIL (R147): the letter gap that closes the letter starts. -/
def execDecTrail (s : State) : Outcome := startTick .lgap (closeLetter s)

end Sys2Proof.Machine
end

