-- ==== Sys2Proof/Machine/Kinds.lean ====
section
/-! DEFINITION. The meanings of the element kinds (spec/30_encoding.md R105; spec/43_timing_state_machine.md R225): the boundary tick on
which the decoder answers with that kind, from ELEMENT_START on. -/

namespace Sys2Proof.Machine

/-- DIT: a tone of 1 unit starts (R225, R232). -/
def execDit (s : State) : Outcome := startTick .dit s

/-- DAH: a tone of 3 units starts (R225, R232). -/
def execDah (s : State) : Outcome := startTick .dah s

/-- LGAP: a silence of 3 units starts (R225, R232). -/
def execLgap (s : State) : Outcome := startTick .lgap s

/-- WGAP: a silence of 7 units starts (R225, R232). -/
def execWgap (s : State) : Outcome := startTick .wgap s

end Sys2Proof.Machine
end

