-- ==== Sys2Proof/Machine/Letters.lean ====
section
/-! DEFINITION. The meanings of the producer's notation (spec/30_encoding.md R114, R116): each letter and rest mark stands for one
symbol word, and means what that word means when it is popped (R145, R146). The words are those the letter table
prints; the patterns other than E, T and A are the spec's general knowledge (K1). -/

namespace Sys2Proof.Machine

/-- A `.-`: the word 0x23. -/
def execLetterA (s : State) : Outcome := wordTick 0x23 s

/-- B `-...`: the word 0x1F. -/
def execLetterB (s : State) : Outcome := wordTick 0x1F s

/-- C `-.-.`: the word 0x5F. -/
def execLetterC (s : State) : Outcome := wordTick 0x5F s

/-- D `-..`: the word 0x17. -/
def execLetterD (s : State) : Outcome := wordTick 0x17 s

/-- E `.`: the word 0x01. -/
def execLetterE (s : State) : Outcome := wordTick 0x01 s

/-- F `..-.`: the word 0x4F. -/
def execLetterF (s : State) : Outcome := wordTick 0x4F s

/-- G `--.`: the word 0x37. -/
def execLetterG (s : State) : Outcome := wordTick 0x37 s

/-- H `....`: the word 0x0F. -/
def execLetterH (s : State) : Outcome := wordTick 0x0F s

/-- I `..`: the word 0x03. -/
def execLetterI (s : State) : Outcome := wordTick 0x03 s

/-- J `.---`: the word 0xEF. -/
def execLetterJ (s : State) : Outcome := wordTick 0xEF s

/-- K `-.-`: the word 0x57. -/
def execLetterK (s : State) : Outcome := wordTick 0x57 s

/-- L `.-..`: the word 0x2F. -/
def execLetterL (s : State) : Outcome := wordTick 0x2F s

/-- M `--`: the word 0x33. -/
def execLetterM (s : State) : Outcome := wordTick 0x33 s

/-- N `-.`: the word 0x13. -/
def execLetterN (s : State) : Outcome := wordTick 0x13 s

/-- O `---`: the word 0x77. -/
def execLetterO (s : State) : Outcome := wordTick 0x77 s

/-- P `.--.`: the word 0x6F. -/
def execLetterP (s : State) : Outcome := wordTick 0x6F s

/-- Q `--.-`: the word 0xBF. -/
def execLetterQ (s : State) : Outcome := wordTick 0xBF s

/-- R `.-.`: the word 0x27. -/
def execLetterR (s : State) : Outcome := wordTick 0x27 s

/-- S `...`: the word 0x07. -/
def execLetterS (s : State) : Outcome := wordTick 0x07 s

/-- T `-`: the word 0x11. -/
def execLetterT (s : State) : Outcome := wordTick 0x11 s

/-- U `..-`: the word 0x47. -/
def execLetterU (s : State) : Outcome := wordTick 0x47 s

/-- V `...-`: the word 0x8F. -/
def execLetterV (s : State) : Outcome := wordTick 0x8F s

/-- W `.--`: the word 0x67. -/
def execLetterW (s : State) : Outcome := wordTick 0x67 s

/-- X `-..-`: the word 0x9F. -/
def execLetterX (s : State) : Outcome := wordTick 0x9F s

/-- Y `-.--`: the word 0xDF. -/
def execLetterY (s : State) : Outcome := wordTick 0xDF s

/-- Z `--..`: the word 0x3F. -/
def execLetterZ (s : State) : Outcome := wordTick 0x3F s

/-- _: the word 0x10. -/
def execMarkWord (s : State) : Outcome := wordTick 0x10 s

/-- ~: the word 0x00. -/
def execMarkLetter (s : State) : Outcome := wordTick 0x00 s

end Sys2Proof.Machine
end

