-- ==== Sys2Proof/Machine/Reserved.lean ====
section
/-! DEFINITION. The meanings of the RESERVED symbol words (spec/30_encoding.md R108; spec/40_symbol_decoder.md R150): the hardware does
not check, and plays tones up to the highest set bit of the length mask. Running them goes beyond the source; the spec
allows it to a model that prefers totality (spec/93_implementation_defined.md U1; log entry 5). -/

namespace Sys2Proof.Machine

/-- RESERVED_2 (R150): start the first of 2 tones. -/
def execReserved2 (code : Mask) (s : State) : Outcome := toneTick 0b0010 code s

/-- RESERVED_4 (R150): start the first of 3 tones. -/
def execReserved4 (code : Mask) (s : State) : Outcome := toneTick 0b0100 code s

/-- RESERVED_5 (R150): start the first of 3 tones. -/
def execReserved5 (code : Mask) (s : State) : Outcome := toneTick 0b0101 code s

/-- RESERVED_6 (R150): start the first of 3 tones. -/
def execReserved6 (code : Mask) (s : State) : Outcome := toneTick 0b0110 code s

/-- RESERVED_8 (R150): start the first of 4 tones. -/
def execReserved8 (code : Mask) (s : State) : Outcome := toneTick 0b1000 code s

/-- RESERVED_9 (R150): start the first of 4 tones. -/
def execReserved9 (code : Mask) (s : State) : Outcome := toneTick 0b1001 code s

/-- RESERVED_A (R150): start the first of 4 tones. -/
def execReservedA (code : Mask) (s : State) : Outcome := toneTick 0b1010 code s

/-- RESERVED_B (R150): start the first of 4 tones. -/
def execReservedB (code : Mask) (s : State) : Outcome := toneTick 0b1011 code s

/-- RESERVED_C (R150): start the first of 4 tones. -/
def execReservedC (code : Mask) (s : State) : Outcome := toneTick 0b1100 code s

/-- RESERVED_D (R150): start the first of 4 tones. -/
def execReservedD (code : Mask) (s : State) : Outcome := toneTick 0b1101 code s

/-- RESERVED_E (R150): start the first of 4 tones. -/
def execReservedE (code : Mask) (s : State) : Outcome := toneTick 0b1110 code s

end Sys2Proof.Machine
end

