-- ==== Sys2Proof/Machine/Words.lean ====
section
/-! DEFINITION. The meanings of the legal symbol words (spec/30_encoding.md R104; spec/40_symbol_decoder.md R145, R146): the boundary
tick on which the word, already removed from the queue by the pop, is opened and its first element starts. -/

namespace Sys2Proof.Machine

/-- LETTER1 (R146): load the word of 1 tone and start the first one. -/
def execLetter1 (code : Mask) (s : State) : Outcome := toneTick 0b0001 code s

/-- LETTER2 (R146): load the word of 2 tones and start the first one. -/
def execLetter2 (code : Mask) (s : State) : Outcome := toneTick 0b0011 code s

/-- LETTER3 (R146): load the word of 3 tones and start the first one. -/
def execLetter3 (code : Mask) (s : State) : Outcome := toneTick 0b0111 code s

/-- LETTER4 (R146): load the word of 4 tones and start the first one. -/
def execLetter4 (code : Mask) (s : State) : Outcome := toneTick 0b1111 code s

/-- REST_L (R145): one gap, of the kind `code_mask[0]` selects; the decoder stays as it is. -/
def execRestL (code : Mask) (s : State) : Outcome := restTick code s

/-- REST_W (R145): one gap, of the kind `code_mask[0]` selects; the decoder stays as it is. -/
def execRestW (code : Mask) (s : State) : Outcome := restTick code s

end Sys2Proof.Machine
end

