-- ==== Sys2Proof/Machine/Dispatch.lean ====
section
/-! DEFINITION. The dispatch: one arm per constructor of Instr, one row of spec/opcode_table.json each. -/

namespace Sys2Proof.Machine

def exec (i : Instr) (s : State) : Host.Outcome State Fault Refusal :=
  match i with
  | .letter1 code => Sys2Proof.Machine.execLetter1 code s
  | .letter2 code => Sys2Proof.Machine.execLetter2 code s
  | .letter3 code => Sys2Proof.Machine.execLetter3 code s
  | .letter4 code => Sys2Proof.Machine.execLetter4 code s
  | .restL code => Sys2Proof.Machine.execRestL code s
  | .restW code => Sys2Proof.Machine.execRestW code s
  | .reserved2 code => Sys2Proof.Machine.execReserved2 code s
  | .reserved4 code => Sys2Proof.Machine.execReserved4 code s
  | .reserved5 code => Sys2Proof.Machine.execReserved5 code s
  | .reserved6 code => Sys2Proof.Machine.execReserved6 code s
  | .reserved8 code => Sys2Proof.Machine.execReserved8 code s
  | .reserved9 code => Sys2Proof.Machine.execReserved9 code s
  | .reservedA code => Sys2Proof.Machine.execReservedA code s
  | .reservedB code => Sys2Proof.Machine.execReservedB code s
  | .reservedC code => Sys2Proof.Machine.execReservedC code s
  | .reservedD code => Sys2Proof.Machine.execReservedD code s
  | .reservedE code => Sys2Proof.Machine.execReservedE code s
  | .dit => Sys2Proof.Machine.execDit s
  | .dah => Sys2Proof.Machine.execDah s
  | .lgap => Sys2Proof.Machine.execLgap s
  | .wgap => Sys2Proof.Machine.execWgap s
  | .decEmpty => Sys2Proof.Machine.execDecEmpty s
  | .decTones => Sys2Proof.Machine.execDecTones s
  | .decTrail => Sys2Proof.Machine.execDecTrail s
  | .letterA => Sys2Proof.Machine.execLetterA s
  | .letterB => Sys2Proof.Machine.execLetterB s
  | .letterC => Sys2Proof.Machine.execLetterC s
  | .letterD => Sys2Proof.Machine.execLetterD s
  | .letterE => Sys2Proof.Machine.execLetterE s
  | .letterF => Sys2Proof.Machine.execLetterF s
  | .letterG => Sys2Proof.Machine.execLetterG s
  | .letterH => Sys2Proof.Machine.execLetterH s
  | .letterI => Sys2Proof.Machine.execLetterI s
  | .letterJ => Sys2Proof.Machine.execLetterJ s
  | .letterK => Sys2Proof.Machine.execLetterK s
  | .letterL => Sys2Proof.Machine.execLetterL s
  | .letterM => Sys2Proof.Machine.execLetterM s
  | .letterN => Sys2Proof.Machine.execLetterN s
  | .letterO => Sys2Proof.Machine.execLetterO s
  | .letterP => Sys2Proof.Machine.execLetterP s
  | .letterQ => Sys2Proof.Machine.execLetterQ s
  | .letterR => Sys2Proof.Machine.execLetterR s
  | .letterS => Sys2Proof.Machine.execLetterS s
  | .letterT => Sys2Proof.Machine.execLetterT s
  | .letterU => Sys2Proof.Machine.execLetterU s
  | .letterV => Sys2Proof.Machine.execLetterV s
  | .letterW => Sys2Proof.Machine.execLetterW s
  | .letterX => Sys2Proof.Machine.execLetterX s
  | .letterY => Sys2Proof.Machine.execLetterY s
  | .letterZ => Sys2Proof.Machine.execLetterZ s
  | .markWord => Sys2Proof.Machine.execMarkWord s
  | .markLetter => Sys2Proof.Machine.execMarkLetter s

end Sys2Proof.Machine
end

