-- ==== Sys2Proof/Machine/Tick.lean ====
section
/-! DEFINITION. The whole tick (spec/44_sample_generator.md R266) and the fetch of a boundary tick
(spec/43_timing_state_machine.md R224, spec/40_symbol_decoder.md R142). -/

namespace Sys2Proof.Machine

/-- What a boundary tick runs, and the state it runs in: a decoder that holds a letter or owes its gap is served first
(R142, R298); otherwise the head of the queue is popped and decoded; with nothing there, the empty decoder itself is
asked (R144). -/
def fetch (s : State) : Instr × State :=
  match s.decState with
  | .tones => (.decTones, s)
  | .trail => (.decTrail, s)
  | .empty =>
    match fifoTryPop s with
    | (none, s') => (.decEmpty, s')
    | (some w, s') => (decodeWord w, s')

/-- TICK (R222, R266). -/
def tick (s : State) : Outcome :=
  match branch s with
  | .endTone => generate false (endTone s)
  | .hold => generate false (hold s)
  | .boundary => exec (fetch s).1 (fetch s).2

/-- One turn, already taken off the schedule (R16, R83, R321). -/
def takeTurn (turn : Turn) (s : State) : Outcome :=
  match turn with
  | .tick => tick s
  | .push => .next (producerTurn s)
  | .quiet => .next (quietCycle s)
  | .reset _ _ => .next (resetAll s)
  | .misuse m => .refused (.hostMisuse m)

/-- The turn that comes next; when the schedule is used up, ticks go on (R335, log entry 3). -/
def nextTurn (s : State) : Turn :=
  match s.turns with
  | [] => .tick
  | turn :: _ => turn

/-- The state with that turn taken off the schedule. -/
def dropTurn (s : State) : State := { s with turns := s.turns.tail }

/-- One atomic step of the model (R16), refused where the build breaks a constraint of R10 (U6). -/
def turnStep (s : State) : Outcome :=
  if s.cfg.WellFormed then takeTurn (nextTurn s) (dropTurn s) else .refused .misconfigured

/-! ### placing an instruction where the next step runs it -/

/-- The ring with `w` as its head word: in the head's slot, or pushed when the queue is empty. -/
def Ring.withHead (r : Ring) (depth : Nat) (isEmpty : Bool) (w : Word) : Ring :=
  if isEmpty then r.push depth w else { r with mem := r.mem.write (r.rdPtr % depth) w }

/-- A boundary tick is due and the next turn is a tick. -/
def withBoundaryDue (s : State) : State :=
  { s with t := s.nextT + gap s.cfg, turns := .tick :: s.turns }

/-- `w` is the head of the queue and the decoder holds nothing. -/
def withHeadWord (w : Word) (s : State) : State :=
  { s with
    decState := .empty
    q := w :: s.q.tail
    ring := s.ring.withHead s.cfg.depth s.q.isEmpty w }

/-- The decoder answers the next request with the kind of code `k`: a letter with that one tone left, a letter whose
gap is owed, or a word-gap rest word at the head of the queue. -/
def withNextKind (k : Code2) (s : State) : State :=
  match k.getLsbD 1, k.getLsbD 0 with
  | false, false => { s with decState := .tones, symLen := 0b0001, symCode := 0b0000 }
  | false, true => { s with decState := .tones, symLen := 0b0001, symCode := 0b0001 }
  | true, false => { s with decState := .trail }
  | true, true => withHeadWord 0x10 s

end Sys2Proof.Machine
end

