-- ==== Sys2Proof/Machine/Step.lean ====
section
/-! DEFINITION. The step (spec/00_scope.md R16) and the host's placing of an instruction. -/

namespace Sys2Proof.Machine

/-- One step of the machine: one atomic step of one of the agents, or of the environment (R16, R19, R83). -/
def step (s : State) : Host.Outcome State Fault Refusal := turnStep s

/-- `s` with the instruction of bits `w` standing where the next step fetches: a symbol word at the head of the queue of
an EMPTY decoder, an element kind as the decoder's next answer; a boundary tick due, and a tick the next turn (log
entries 12 and 14). -/
def State.withFetchWord (s : State) (nbits w : Nat) : State :=
  if nbits = 2 then withBoundaryDue (withNextKind (BitVec.ofNat 2 w) s)
  else withBoundaryDue (withHeadWord (BitVec.ofNat 8 w) s)

end Sys2Proof.Machine
end

