-- ==== Sys2Proof/Safety.lean ====
section
/-! DEFINITION. What claims are stated in: the invariants of the state (spec/10_state.md R50, spec/40_symbol_decoder.md
R148, spec/44_sample_generator.md R267), the realisation of the queue (spec/10_state.md R41), the drained state
(spec/43_timing_state_machine.md R228), the eager expansion of a word (spec/30_encoding.md R111) and what a run pushes,
pops and plays. -/

namespace Sys2Proof.Machine

/-! ### the invariant of R50 -/

/-- R50 (a). The type of `waveIdx` says it of every well-formed build (Laws/State.lean, `indexInTable`). -/
abbrev IndexInTable (s : State) : Prop := s.waveIdx.val < tableLen s.cfg

/-- The clauses of R50 with R148 and V3, for a well-formed build; clause (b) holds by the type of `decState`. -/
structure Inv (s : State) : Prop where
  /-- The premise of R50: the constraints of R10. -/
  build : s.cfg.WellFormed
  /-- R50 (a). -/
  index : IndexInTable s
  /-- R50 (c). -/
  tones : s.decState = .tones → s.symLen ≠ 0
  /-- R148, V3: outside TONES no tone of a popped word is left. -/
  others : s.decState ≠ .tones → s.symLen = 0
  /-- R50 (d). -/
  queue : s.q.length ≤ s.cfg.depth
  /-- R50 (e). -/
  emitting : s.emit = true →
    (s.nextT = dur s.cfg .dit ∨ s.nextT = dur s.cfg .dah) ∧ 1 ≤ s.t.toNat ∧ s.t.toNat ≤ s.nextT.toNat
  /-- R50 (f), over the natural numbers. -/
  counter : s.t.toNat ≤ s.nextT.toNat + s.cfg.u
  /-- Once a boundary tick has been taken, `t` counts from 1 (R33, R225, R226). -/
  counting : s.nextT ≠ 0 → 1 ≤ s.t.toNat
  /-- R50 (g). -/
  span : s.nextT = 0 ∨ s.nextT = idleSpan s.cfg ∨ s.nextT = dur s.cfg .dit ∨ s.nextT = dur s.cfg .dah ∨
    s.nextT = dur s.cfg .lgap ∨ s.nextT = dur s.cfg .wgap

/-! ### the output (R265, R267) -/

/-- What the outputs show, as a function of where the block is in its timeline. -/
structure OutputFollowsTable (s : State) : Prop where
  /-- The two channels are one value (R265). -/
  channels : s.dacLeft = s.dacRight
  /-- `emit_o` is `emit` (R265, R272). -/
  shown : s.emitO = s.emit
  /-- Outside the emit window the sample is 0 (R267). -/
  silent : s.emit = false → s.dacLeft = 0
  /-- After the tick at offset `m = t - 1` of a tone the sample is `ROM[m]` (R267). -/
  sample : s.emit = true → romRead s.cfg (s.t.toNat - 1) = some s.dacLeft
  /-- Inside a tone the index of the next tick is `t`, reduced modulo `N` (R234). -/
  index : s.emit = true → s.waveIdx.val = if s.t.toNat = tableLen s.cfg then 0 else s.t.toNat

/-! ### the realisation of the queue (R41, R42) -/

/-- The ring holds exactly the words of `q`. -/
structure RingHoldsQueue (s : State) : Prop where
  /-- The words between the pointers are `q`, head first (R41). -/
  words : s.ring.words s.cfg.depth = s.q.map some
  /-- `wr_ptr` is reduced. -/
  wrPtr : s.ring.wrPtr < 2 * s.cfg.depth
  /-- `rd_ptr` is reduced. -/
  rdPtr : s.ring.rdPtr < 2 * s.cfg.depth
  /-- The render side's copy is exact (R178, V11). -/
  wrSeen : s.ring.wrPtrSeen = s.ring.wrPtr
  /-- The producer side's copy is exact (V11). -/
  rdSeen : s.ring.rdPtrSeen = s.ring.rdPtr
  /-- The memory is in its canonical form. -/
  form : Memory.wf s.ring.mem = true
  /-- Only the `DEPTH` slots are used (R41). -/
  slots : ∀ c ∈ s.ring.mem, c.1 < s.cfg.depth

/-! ### drained (R18, R228) -/

/-- R228: nothing to play, and the state machine idles. -/
structure Drained (s : State) : Prop where
  /-- `q` is empty. -/
  queue : s.q = []
  /-- `dec_state` is EMPTY. -/
  decoder : s.decState = .empty
  /-- `emit` is 0. -/
  emit : s.emit = false
  /-- `next_t` = F + 1. -/
  span : s.nextT = idleSpan s.cfg

/-! ### safe runs (R294) -/

/-- A turn in which the host keeps its duties. -/
def Turn.dutiful (turn : Turn) : Bool :=
  match turn with
  | .tick => true
  | .push => true
  | .quiet => true
  | .reset _ _ => true
  | .misuse _ => false

/-- A turn that is no reset. -/
def Turn.keepsRunning (turn : Turn) : Bool :=
  match turn with
  | .tick => true
  | .push => true
  | .quiet => true
  | .reset _ _ => false
  | .misuse _ => false

/-- R108, R328: a word whose length mask has a clear bit below a set bit. -/
def isReserved (w : Word) : Bool :=
  !(lengthMask w = 0 || lengthMask w = 0b0001 || lengthMask w = 0b0011 || lengthMask w = 0b0111 ||
    lengthMask w = 0b1111)

/-- What a safe run starts from: the invariant, and a host that keeps every duty of R24 from there on. -/
structure SafeStart (s : State) : Prop where
  /-- R50. -/
  inv : Inv s
  /-- No turn breaks a duty (R294). -/
  dutiful : ∀ turn ∈ s.turns, turn.dutiful = true
  /-- No RESERVED word is pushed (R328). -/
  words : ∀ w ∈ s.toPush, isReserved w = false

/-! ### the element stream (R111, R149) -/

/-- The tones left in a pair of masks, first to be played first: as many shifts as it takes to clear the length mask,
at most `fuel` of them (R102, R143; a mask is clear after `W` shifts). -/
def toneList (fuel : Nat) (len code : Mask) : List Kind :=
  match fuel with
  | 0 => []
  | n + 1 => if len = 0 then [] else toneOf code :: toneList n (len >>> 1) (code >>> 1)

/-- `expand(w)` (R111), on a RESERVED word the elements R150 gives it. -/
def expandWord (w : Word) : List Kind :=
  if lengthMask w = 0 then [restOf (codeMask w)] else toneList 4 (lengthMask w) (codeMask w) ++ [.lgap]

/-- The elements the decoder still owes for the word it holds. -/
def heldElements (s : State) : List Kind :=
  match s.decState with
  | .empty => []
  | .tones => toneList 4 s.symLen s.symCode ++ [.lgap]
  | .trail => [.lgap]

/-- Everything pushed and not yet played, as elements in playing order. -/
def pendingElements (s : State) : List Kind := heldElements s ++ s.q.flatMap expandWord

/-! ### what one turn pushes, pops and starts -/

/-- The turn is a boundary tick. -/
def atBoundary (s : State) : Bool := nextTurn s == .tick && branch s == .boundary

/-- The word the turn pushes. -/
def pushedNow (s : State) : Option Word :=
  if nextTurn s = .push ∧ wrReady false s = true then s.toPush.head? else none

/-- The word the turn pops. -/
def poppedNow (s : State) : Option Word :=
  if atBoundary s = true ∧ s.decState = .empty then s.q.head? else none

/-- The element the turn starts. -/
def startedNow (s : State) : Option Kind := if atBoundary s = true then (nextElement s).1 else none

/-- What `look` sees on each of the next `n` turns, in order, up to the first refusal. -/
def overRun {α : Type} (look : State → Option α) (n : Nat) (s : State) : List α :=
  match n with
  | 0 => []
  | k + 1 =>
    match step s with
    | .next s' => (look s).toList ++ overRun look k s'
    | .fault _ => []
    | .refused _ => []

/-- `n` steps of the machine. -/
abbrev runFor (n : Nat) (s : State) : Host.Outcome State Fault Refusal := Sys2Proof.core.run n s

/-- How many ticks away the next boundary tick is: `next_t + G - t` (R233). -/
def untilBoundary (s : State) : Nat := s.nextT.toNat + s.cfg.u - s.t.toNat

end Sys2Proof.Machine
end

