-- ==== Sys2Proof/Certificates/Slice0/Obligations.lean ====
section
/-! DEFINITION. The statements for the provers: what the rules of spec/ say of this block. `Sys2Proof.Claims` writes out,
from the rules and without the model's own tables, what the statements compare the model with. -/

namespace Sys2Proof.Claims

open Sys2Proof.Machine

/-- How many units an element lasts (R232): 1, 3, 3, 7. -/
def units (k : Kind) : Nat :=
  match k with
  | .dit => 1
  | .dah => 3
  | .lgap => 3
  | .wgap => 7

/-- A tone element: DIT or DAH (R18, R105). -/
def isTone (k : Kind) : Bool :=
  match k with
  | .dit => true
  | .dah => true
  | .lgap => false
  | .wgap => false

/-- The tone a bit of `code_mask` stands for (R101). -/
def toneBit (b : Bool) : Kind := if b then .dah else .dit

/-- What R225 and R263 to R265 make of a state in which element `k` starts; the sample is `ROM[0]`, which is 0 (P1). -/
def started (k : Kind) (s : State) : State :=
  { s with
    t := 1
    nextT := BitVec.ofNat 32 (units k * s.cfg.u)
    emit := isTone k
    waveIdx := 1
    dacLeft := 0
    dacRight := 0
    dacValid := true
    emitO := isTone k }

/-- What R226 and R263 to R265 make of a state in which the block idles: `wave_idx` is not cleared, it advances
(the addition of `WaveIndex` is modulo `N`, R264). -/
def idled (s : State) : State :=
  { s with
    t := 1
    nextT := BitVec.ofNat 32 (s.cfg.f + 1)
    emit := false
    waveIdx := s.waveIdx + 1
    dacLeft := 0
    dacRight := 0
    dacValid := true
    emitO := false }

/-- The decoder's registers after a letter's first tone (R146). -/
def loaded (len code : Mask) (d : DecState) (s : State) : State :=
  { s with symLen := len >>> 1, symCode := code >>> 1, decState := d }

/-- The word at the head of the queue has been popped (R175); the realisation's read pointer moves on (R41). -/
def popped (s : State) : State :=
  { s with
    q := s.q.tail
    ring := { s.ring with
      rdPtr := (s.ring.rdPtr + 1) % (2 * s.cfg.depth)
      rdPtrSeen := (s.ring.rdPtr + 1) % (2 * s.cfg.depth) } }

/-- The table of R104 with the eleven reserved rows (R108, R150): the fixed bits, their place, and the elements. -/
structure ClassRow where
  /-- Where the row has fixed bits. -/
  mask : Word
  /-- What those bits are. -/
  bits : Word
  /-- The elements the word produces, from its `code_mask`. -/
  elements : Mask → List Kind

/-- `n` tones from the low bits of `code_mask`, then the closing letter gap. -/
def letterElements (n : Nat) (code : Mask) : List Kind :=
  (List.range n).map (fun k => toneBit (code.getLsbD k)) ++ [.lgap]

/-- The seventeen word classes of R104. -/
def classRows : List ClassRow :=
  [
    ⟨0x0F, 0x01, letterElements 1⟩,
    ⟨0x0F, 0x03, letterElements 2⟩,
    ⟨0x0F, 0x07, letterElements 3⟩,
    ⟨0x0F, 0x0F, letterElements 4⟩,
    ⟨0x1F, 0x00, fun _ => [.lgap]⟩,
    ⟨0x1F, 0x10, fun _ => [.wgap]⟩,
    ⟨0x0F, 0x02, letterElements 2⟩,
    ⟨0x0F, 0x04, letterElements 3⟩,
    ⟨0x0F, 0x05, letterElements 3⟩,
    ⟨0x0F, 0x06, letterElements 3⟩,
    ⟨0x0F, 0x08, letterElements 4⟩,
    ⟨0x0F, 0x09, letterElements 4⟩,
    ⟨0x0F, 0x0A, letterElements 4⟩,
    ⟨0x0F, 0x0B, letterElements 4⟩,
    ⟨0x0F, 0x0C, letterElements 4⟩,
    ⟨0x0F, 0x0D, letterElements 4⟩,
    ⟨0x0F, 0x0E, letterElements 4⟩
  ]

/-- The reserved rows and their length masks (R108). -/
def reservedRows : List ((Mask → Instr) × Mask) :=
  [(.reserved2, 0b0010),
   (.reserved4, 0b0100),
   (.reserved5, 0b0101),
   (.reserved6, 0b0110),
   (.reserved8, 0b1000),
   (.reserved9, 0b1001),
   (.reservedA, 0b1010),
   (.reservedB, 0b1011),
   (.reservedC, 0b1100),
   (.reservedD, 0b1101),
   (.reservedE, 0b1110)]

/-- The letters and their patterns (R114). -/
def letters : List (Instr × List Kind) :=
  [(.letterA, [.dit, .dah]),
   (.letterB, [.dah, .dit, .dit, .dit]),
   (.letterC, [.dah, .dit, .dah, .dit]),
   (.letterD, [.dah, .dit, .dit]),
   (.letterE, [.dit]),
   (.letterF, [.dit, .dit, .dah, .dit]),
   (.letterG, [.dah, .dah, .dit]),
   (.letterH, [.dit, .dit, .dit, .dit]),
   (.letterI, [.dit, .dit]),
   (.letterJ, [.dit, .dah, .dah, .dah]),
   (.letterK, [.dah, .dit, .dah]),
   (.letterL, [.dit, .dah, .dit, .dit]),
   (.letterM, [.dah, .dah]),
   (.letterN, [.dah, .dit]),
   (.letterO, [.dah, .dah, .dah]),
   (.letterP, [.dit, .dah, .dah, .dit]),
   (.letterQ, [.dah, .dah, .dit, .dah]),
   (.letterR, [.dit, .dah, .dit]),
   (.letterS, [.dit, .dit, .dit]),
   (.letterT, [.dah]),
   (.letterU, [.dit, .dit, .dah]),
   (.letterV, [.dit, .dit, .dit, .dah]),
   (.letterW, [.dit, .dah, .dah]),
   (.letterX, [.dah, .dit, .dit, .dah]),
   (.letterY, [.dah, .dit, .dah, .dah]),
   (.letterZ, [.dah, .dah, .dit, .dit])]

/-- The characters of the letters, in the same order (R114, R116). -/
def letterChars : List (Char × List Kind) :=
  [('A', [.dit, .dah]),
   ('B', [.dah, .dit, .dit, .dit]),
   ('C', [.dah, .dit, .dah, .dit]),
   ('D', [.dah, .dit, .dit]),
   ('E', [.dit]),
   ('F', [.dit, .dit, .dah, .dit]),
   ('G', [.dah, .dah, .dit]),
   ('H', [.dit, .dit, .dit, .dit]),
   ('I', [.dit, .dit]),
   ('J', [.dit, .dah, .dah, .dah]),
   ('K', [.dah, .dit, .dah]),
   ('L', [.dit, .dah, .dit, .dit]),
   ('M', [.dah, .dah]),
   ('N', [.dah, .dit]),
   ('O', [.dah, .dah, .dah]),
   ('P', [.dit, .dah, .dah, .dit]),
   ('Q', [.dah, .dah, .dit, .dah]),
   ('R', [.dit, .dah, .dit]),
   ('S', [.dit, .dit, .dit]),
   ('T', [.dah]),
   ('U', [.dit, .dit, .dah]),
   ('V', [.dit, .dit, .dit, .dah]),
   ('W', [.dit, .dah, .dah]),
   ('X', [.dah, .dit, .dit, .dah]),
   ('Y', [.dah, .dit, .dah, .dah]),
   ('Z', [.dah, .dah, .dit, .dit])]

/-- The canonical length mask of `n` tones: the `n` low bits (R103). -/
def lowBits (n : Nat) : Mask := BitVec.ofNat 4 (2 ^ n - 1)

/-- The code mask of a list of tones, first tone in bit 0, unexamined bits 0 (R102, R107). -/
def codeOf (tones : List Kind) : Mask :=
  match tones with
  | [] => 0
  | k :: ks => (if k = .dah then 1 else 0) ||| (codeOf ks <<< 1)

/-- The characters a pattern is written with (R114, R116). -/
def patternChar (k : Kind) : Char := if k = .dah then '-' else '.'

/-- Every character the notation gives a word of its own (R116). -/
def markedChars : List Char := letterChars.map Prod.fst ++ ['_', '~']

/-- How many of the next `n` turns are ticks; ticks go on when the schedule is used up (R335, log entry 3). -/
def ticksWithin (n : Nat) (turns : List Turn) : Nat :=
  match n, turns with
  | 0, _ => 0
  | k + 1, [] => k + 1
  | k + 1, turn :: rest => (if turn = .tick then 1 else 0) + ticksWithin k rest

/-- Two words the decoder plays alike: the same expansion (R107, R111). -/
def playsAlike (w v : Word) : Prop := expandWord w = expandWord v

/-- Two states that differ at most in words that play alike: everything the outputs and the timing depend on agrees. -/
def looksAlike (a b : State) : Prop :=
  b = { a with q := b.q, ring := b.ring, symLen := b.symLen, symCode := b.symCode, toPush := b.toPush } ∧
    List.Forall₂ playsAlike a.q b.q ∧ List.Forall₂ playsAlike a.toPush b.toPush ∧
    heldElements a = heldElements b

end Sys2Proof.Claims

open Sys2Proof Sys2Proof.Machine Sys2Proof.Claims

/-- Reset gives every register its reset value, whatever the state was, and leaves the tables and the queue memory alone (R320).
That a reset turn leaves the two inputs alone is the model's (log entries 16 and 3). -/
def Obligations.ResetPutsEveryRegisterAtItsResetValue : Prop :=
  (State.reset.t = 0 ∧ State.reset.nextT = 0 ∧ State.reset.emit = false ∧ State.reset.waveIdx = 0 ∧
    State.reset.decState = .empty ∧ State.reset.symLen = 0 ∧ State.reset.symCode = 0 ∧ State.reset.q = [] ∧
    State.reset.ring.wrPtr = 0 ∧ State.reset.ring.rdPtr = 0 ∧ State.reset.ring.wrPtrSeen = 0 ∧
    State.reset.ring.rdPtrSeen = 0 ∧ State.reset.dacLeft = 0 ∧ State.reset.dacRight = 0 ∧
    State.reset.dacValid = false ∧ State.reset.emitO = false ∧ wrReady false State.reset = true ∧
    rdEmpty State.reset = true) ∧
  ∀ (s : State) (a b : Bool) (rest : List Turn), s.cfg.WellFormed → s.turns = .reset a b :: rest →
    ∃ s' : State, step s = .next s' ∧
      s' = { cfg := s.cfg, t := 0, nextT := 0, emit := false, waveIdx := 0, decState := .empty, symLen := 0,
             symCode := 0, q := [],
             ring := { mem := s.ring.mem, wrPtr := 0, rdPtr := 0, wrPtrSeen := 0, rdPtrSeen := 0 },
             dacLeft := 0, dacRight := 0, dacValid := false, emitO := false, toPush := s.toPush,
             turns := rest } ∧
      wrReady false s' = true ∧ rdEmpty s' = true

/-- In a cycle with reset asserted no tick and no push is taken (R321).
How the turn carries the two levels, and that the inputs survive it, is the model's (log entries 16 and 3). -/
def Obligations.ResetBeatsTickAndPush : Prop :=
  (∀ s : State, wrReady true s = false) ∧
  ∀ (s : State) (a b : Bool) (rest : List Turn), s.cfg.WellFormed → s.turns = .reset a b :: rest →
    step s = step { s with turns := .reset false false :: rest } ∧
    ∃ s' : State, step s = .next s' ∧ s'.q = [] ∧ s'.toPush = s.toPush ∧ s'.t = 0 ∧ s'.dacValid = false ∧
      s'.emitO = false ∧ s'.dacLeft = 0 ∧ s'.dacRight = 0

/-- END_TONE: at j = next_t the tick clears emit and counts on; the sample is already 0 (R223, R264, R265, R222).
`dac_valid` after a tick is the model's choice (log entry 6). -/
def Obligations.EndToneMutesAndCountsOn : Prop :=
  ∀ s : State, s.cfg.WellFormed → nextTurn s = .tick → s.t = s.nextT →
    step s = .next { s with
      t := s.t + 1, emit := false, waveIdx := s.waveIdx + 1, dacLeft := 0, dacRight := 0,
      dacValid := true, emitO := false, turns := s.turns.tail }

/-- HOLD: off both boundaries a tick advances t and the wave index and plays the table entry or 0 (R230, R263, R264, R265, R222).
`dac_valid` after a tick is the model's choice (log entry 6). -/
def Obligations.HoldOnlyCountsAndPlays : Prop :=
  ∀ (s : State) (v : Sample), s.cfg.WellFormed → s.cfg.rom[s.waveIdx.val]? = some v → nextTurn s = .tick →
    s.t ≠ s.nextT → s.t ≠ s.nextT + BitVec.ofNat 32 s.cfg.u →
    step s = .next { s with
      t := s.t + 1, waveIdx := s.waveIdx + 1, dacLeft := if s.emit then v else 0,
      dacRight := if s.emit then v else 0, dacValid := true, emitO := s.emit, turns := s.turns.tail }

/-- BOUNDARY: the gap over, the decoder is asked once and its answer starts an element or an idle interval (R224, R225, R226, R263, R266).
`dac_valid` after a tick is the model's choice (log entry 6). -/
def Obligations.BoundaryPlaysTheDecodersAnswer : Prop :=
  ∀ s : State, s.cfg.WellFormed → nextTurn s = .tick →
    s.t = s.nextT + BitVec.ofNat 32 s.cfg.u →
    step s = .next (match nextElement (dropTurn s) with
      | (some k, s') => started k s'
      | (none, s') => idled s')

/-- NEXT_ELEMENT: the dispatch on dec_state and its five cases (R142, R143, R144, R145, R146, R147).
The two popping clauses move the ring's read pointer and its copy together, which is the model's (log entry 10; R41,
R175). -/
def Obligations.NextElementHandsOutWhatTheDecoderHolds : Prop :=
  (∀ s : State, s.decState = .tones →
    nextElement s = (some (toneBit (s.symCode.getLsbD 0)),
      loaded s.symLen s.symCode (if s.symLen >>> 1 = 0 then .trail else .tones) s)) ∧
  (∀ s : State, s.decState = .trail → nextElement s = (some .lgap, { s with decState := .empty })) ∧
  (∀ s : State, s.decState = .empty → s.q = [] → nextElement s = (none, s)) ∧
  (∀ (s : State) (w : Word) (ws : List Word), s.decState = .empty → s.q = w :: ws →
    w.extractLsb' 0 4 = 0 →
    nextElement s = (some (if w.getLsbD 4 then .wgap else .lgap), popped s)) ∧
  (∀ (s : State) (w : Word) (ws : List Word), s.decState = .empty → s.q = w :: ws →
    w.extractLsb' 0 4 ≠ 0 →
    nextElement s = (some (toneBit (w.getLsbD 4)),
      loaded (w.extractLsb' 0 4) (w.extractLsb' 4 4)
        (if w.extractLsb' 0 4 >>> 1 = 0 then .trail else .tones) (popped s)))

/-- LETTER1 to LETTER4: the word is loaded shifted and its first tone starts (R146, R225, R104).
That a row means its whole boundary tick, and `dac_valid` after it, are the model's (log entries 13 and 6). -/
def Obligations.LetterWordsStartTheirFirstTone : Prop :=
  ∀ (code : Mask) (s : State), s.cfg.WellFormed →
    exec (.letter1 code) s = .next (started (toneBit (code.getLsbD 0)) (loaded 0b0001 code .trail s)) ∧
    exec (.letter2 code) s = .next (started (toneBit (code.getLsbD 0)) (loaded 0b0011 code .tones s)) ∧
    exec (.letter3 code) s = .next (started (toneBit (code.getLsbD 0)) (loaded 0b0111 code .tones s)) ∧
    exec (.letter4 code) s = .next (started (toneBit (code.getLsbD 0)) (loaded 0b1111 code .tones s))

/-- REST_L and REST_W: one gap starts and the decoder stays as it is (R145, R106, R225).
That a row means its whole boundary tick, and `dac_valid` after it, are the model's (log entries 13 and 6). -/
def Obligations.RestWordsStartOneGap : Prop :=
  ∀ (code : Mask) (s : State), s.cfg.WellFormed →
    ((Instr.restL code).WellFormed → exec (.restL code) s = .next (started .lgap s)) ∧
    ((Instr.restW code).WellFormed → exec (.restW code) s = .next (started .wgap s))

/-- RESERVED words (all eleven masks): the first tone starts and the masks are loaded shifted (R150, R108, R146).
Running these words goes beyond the source and is the model's choice, which U1 allows (log entries 5, 13 and 6). -/
def Obligations.ReservedWordsPlayLikeLetters : Prop :=
  ∀ row ∈ reservedRows, ∀ (code : Mask) (s : State), s.cfg.WellFormed →
    exec (row.1 code) s = .next (started (toneBit (code.getLsbD 0)) (loaded row.2 code .tones s))

/-- DIT, DAH, LGAP, WGAP: each starts with its duration, emit set for a tone and cleared for a gap (R225, R232, R263, R265).
That a row means its whole boundary tick, and `dac_valid` after it, are the model's (log entries 13 and 6). -/
def Obligations.ElementKindsStart : Prop :=
  ∀ s : State, s.cfg.WellFormed →
    exec .dit s = .next (started .dit s) ∧ exec .dah s = .next (started .dah s) ∧
    exec .lgap s = .next (started .lgap s) ∧ exec .wgap s = .next (started .wgap s)

/-- DEC_TONES hands out the next tone, DEC_TRAIL the closing letter gap; the queue is not touched (R143, R147, R225).
That a row means its whole boundary tick, and `dac_valid` after it, are the model's (log entries 13 and 6). -/
def Obligations.HeldLetterGoesOn : Prop :=
  ∀ s : State, s.cfg.WellFormed →
    exec .decTones s = .next (started (toneBit (s.symCode.getLsbD 0))
      (loaded s.symLen s.symCode (if s.symLen >>> 1 = 0 then .trail else .tones) s)) ∧
    exec .decTrail s = .next (started .lgap { s with decState := .empty })

/-- DEC_EMPTY: an empty queue makes the block idle; a word is popped and opened (R142, R144, R226, R175).
That a row means its whole boundary tick, and the ring in lockstep, are the model's (log entries 13, 6 and 10), and so is
running a RESERVED word (log entry 5). -/
def Obligations.EmptyDecoderIdlesOrOpensAWord : Prop :=
  (∀ s : State, s.cfg.WellFormed → s.q = [] → exec .decEmpty s = .next (idled s)) ∧
  ∀ (s : State) (w : Word) (ws : List Word), s.cfg.WellFormed → s.q = w :: ws →
    exec .decEmpty s = exec (decodeWord w) (popped s) ∧ ∃ t : State, exec .decEmpty s = .next t ∧ t.q = ws

/-- A to Z: each letter starts the first element of its pattern and holds the rest (R114, R115, R103, R146).
That a letter row has a meaning of its own is the model's choice (log entries 11, 13 and 6). -/
def Obligations.LettersStartTheirPattern : Prop :=
  ∀ row ∈ letters, ∀ (k : Kind) (ks : List Kind), row.2 = k :: ks → ∀ s : State, s.cfg.WellFormed →
    exec row.1 s = .next (started k { s with
      symLen := lowBits ks.length, symCode := codeOf ks, decState := if ks = [] then .trail else .tones })

/-- The marks `_` and `~` start one word gap and one letter gap (R116, R145).
That a mark has a meaning of its own is the model's choice (log entries 11, 13 and 6). -/
def Obligations.RestMarksStartOneGap : Prop :=
  ∀ s : State, s.cfg.WellFormed →
    exec .markWord s = .next (started .wgap s) ∧ exec .markLetter s = .next (started .lgap s)

/-- Every instruction completes in every state of a well-formed build (R290, R266, R177).
It rests on what a row means and on `dac_valid` after a tick (log entries 13 and 6), and it takes in rows whose running is
the model's choice: RESERVED rows (log entry 5, beyond the source as U1 allows), pseudo rows (log entry 11) and ill-formed
rest rows (log entry 18). -/
def Obligations.EveryInstructionCompletes : Prop :=
  ∀ (i : Instr) (s : State), s.cfg.WellFormed →
    ∃ s' : State, exec i s = .next s' ∧ s'.t = 1 ∧ s'.dacValid = true

/-- What no instruction changes: the build, the inputs, the queue memory and its write side; only DEC_EMPTY pops (R48, R84, R78, R46).
It rests on what a row means, on the ring in lockstep and on the two input fields (log entries 13, 10 and 3), and it takes
in the RESERVED, pseudo and ill-formed rest rows (log entries 5, 11 and 18). -/
def Obligations.InstructionFrame : Prop :=
  ∀ (i : Instr) (s s' : State), exec i s = .next s' →
    s'.cfg = s.cfg ∧ s'.toPush = s.toPush ∧ s'.turns = s.turns ∧
    s'.ring.wrPtr = s.ring.wrPtr ∧ s'.ring.wrPtrSeen = s.ring.wrPtrSeen ∧
    (∀ slot : Nat, s'.ring.mem.read slot = s.ring.mem.read slot) ∧ s'.dacLeft = s'.dacRight ∧
    (i ≠ .decEmpty → s'.q = s.q ∧ s'.ring = s.ring) ∧ (i = .decEmpty → s'.q = s.q.tail)

/-- A boundary tick of an EMPTY decoder runs the instruction the head word decodes to (R142, R175, R224).
The second clause is about the host's placing of a word (log entries 12, 13 and 14), and both
move the ring's read pointer with its copy (log entry 10; R41). Both take in RESERVED words (log entry 5). -/
def Obligations.StepRunsTheWordAtTheHead : Prop :=
  (∀ (s : State) (w : Word) (ws : List Word), s.cfg.WellFormed → nextTurn s = .tick →
    s.t = s.nextT + BitVec.ofNat 32 s.cfg.u → s.decState = .empty → s.q = w :: ws →
    decode (.word w) = .ok (decodeWord w) ∧ (decodeWord w).WellFormed ∧
    step s = exec (decodeWord w) (popped (dropTurn s))) ∧
  ∀ (s : State) (w : Word), s.cfg.WellFormed →
    step (s.withFetchWord 8 w.toNat) =
      exec (decodeWord w) (popped (dropTurn (s.withFetchWord 8 w.toNat)))

/-- A boundary tick of a decoder in TONES or TRAIL, or EMPTY with no word, runs that decoder state's row (R142, R224, R37).
It rests on what a row means (log entry 13). -/
def Obligations.StepRunsTheHeldLetter : Prop :=
  ∀ s : State, s.cfg.WellFormed → nextTurn s = .tick → s.t = s.nextT + BitVec.ofNat 32 s.cfg.u →
    (s.decState = .tones → step s = exec .decTones (dropTurn s)) ∧
    (s.decState = .trail → step s = exec .decTrail (dropTurn s)) ∧
    (s.decState = .empty → s.q = [] → step s = exec .decEmpty (dropTurn s))

/-- A letter or rest mark means exactly what the class row of its word means (R114, R116).
The pseudo rows as instructions are the model's choice (log entry 11). -/
def Obligations.PseudoRowsMeanTheirClassRow : Prop :=
  ∀ (i : Instr) (s : State), exec i s = exec (canonical i) s

/-- The worked encodings: words written out bit by bit decode to their rows (R118, R100, R104, R105, R37). -/
def Obligations.SampleWordsDecodeAsTheSpecWritesThem : Prop :=
  decode (.word 0b00000001) = .ok (.letter1 0b0000) ∧ decode (.word 0b00010001) = .ok (.letter1 0b0001) ∧
  decode (.word 0b00100011) = .ok (.letter2 0b0010) ∧ decode (.word 0b01110111) = .ok (.letter3 0b0111) ∧
  decode (.word 0b00011111) = .ok (.letter4 0b0001) ∧ decode (.word 0b00000000) = .ok (.restL 0b0000) ∧
  decode (.word 0b00010000) = .ok (.restW 0b0001) ∧ decode (.word 0b00100101) = .ok (.reserved5 0b0010) ∧
  decode (.kind 0b00) = .ok .dit ∧ decode (.kind 0b01) = .ok .dah ∧ decode (.kind 0b10) = .ok .lgap ∧
  decode (.kind 0b11) = .ok .wgap ∧ decode (.dec 0b00) = .ok .decEmpty ∧ decode (.dec 0b01) = .ok .decTones ∧
  decode (.dec 0b10) = .ok .decTrail ∧ decode (.dec 0b11) = .error .unusedDecState

/-- Decode and encode agree: decoding the code of any well-formed instruction gives its canonical form back (R100, R104, R105, R108, R114).
The canonical form and the place of a code are the model's (log entries 11 and 12). -/
def Obligations.DecodeOfEncodeIsTheInstruction : Prop :=
  ∀ i : Instr, i.WellFormed → decode (encode i) = .ok (canonical i)

/-- Encode and decode agree the other way: encoding what a code decodes to gives the code back (R100, R107, R109). -/
def Obligations.EncodeOfDecodeIsTheCode : Prop :=
  ∀ (c : Encoded) (i : Instr), decode c = .ok i → i.WellFormed ∧ encode i = c

/-- Every word falls in exactly one of the seventeen classes and expands to that class's elements (R104).
The elements of the eleven RESERVED rows are R150's, which the model runs beyond R111's `expand` (log entry 5). -/
def Obligations.EveryWordFallsInExactlyOneClass : Prop :=
  ∀ w : Word, (classRows.filter (fun r => w &&& r.mask == r.bits)).map (fun r => r.elements (w.extractLsb' 4 4)) =
    [expandWord w]

/-- A RESERVED word yields tones up to the highest set bit of its length mask, then one LGAP (R150, R108).
Running these words is the model's choice, which U1 allows (log entry 5). -/
def Obligations.ReservedWordsExpandToTheHighestSetBit : Prop :=
  ∀ w : Word, isReserved w = true →
    expandWord w =
      (List.range ((w.extractLsb' 0 4).toNat.log2 + 1)).map (fun k => toneBit ((w.extractLsb' 4 4).getLsbD k)) ++
        [.lgap]

/-- Every letter of the notation has a word whose expansion is its pattern and one letter gap; other characters have
none (R112, R113, R114, R116). How runs of pattern characters are told apart, and that the lookup knows the two rest marks,
is the model's choice (log entries 19 and 20). -/
def Obligations.LetterTableMatchesThePatterns : Prop :=
  (∀ row ∈ letterChars, ∃ w : Word, lookup row.1 = some w ∧ isReserved w = false ∧
    expandWord w = row.2 ++ [.lgap] ∧ assemble (row.2.map patternChar) = [w]) ∧
  lookup '_' = some 0x10 ∧ lookup '~' = some 0x00 ∧
  (∀ ch : Char, ch ∉ markedChars → lookup ch = none) ∧
  (∀ ch : Char, ch ≠ '.' → ch ≠ '-' → assemble [ch] = (lookup ch).toList) ∧
  ∀ p p' : List Char,
    (∀ ch ∈ p.getLast?, ch ≠ '.' ∧ ch ≠ '-') ∨ (∀ ch ∈ p'.head?, ch ≠ '.' ∧ ch ≠ '-') →
    assemble (p ++ p') = assemble p ++ assemble p'

/-- PUSH: with room, the producer's word is appended to the queue and nothing of the render side changes (R172, R41, R79, R84).
The ring in lockstep, for every DEPTH, is the model's (log entry 10). -/
def Obligations.PushAppendsAtTheTail : Prop :=
  ∀ (s : State) (w : Word) (ws : List Word), s.cfg.WellFormed → nextTurn s = .push → s.toPush = w :: ws →
    s.q.length < s.cfg.depth →
    ∃ m : Memory,
      step s = .next { s with
        q := s.q ++ [w], toPush := ws, turns := s.turns.tail,
        ring := { s.ring with
          mem := m, wrPtr := (s.ring.wrPtr + 1) % (2 * s.cfg.depth),
          wrPtrSeen := (s.ring.wrPtr + 1) % (2 * s.cfg.depth) } } ∧
      m.read (s.ring.wrPtr % s.cfg.depth) = some w ∧
      ∀ slot : Nat, slot ≠ s.ring.wrPtr % s.cfg.depth → m.read slot = s.ring.mem.read slot

/-- A push into a full queue does not happen: nothing changes, the producer keeps its word, and a pop lifts the hold (R173).
That such a turn is a step of the model, which only takes the turn and keeps the producer's word, is the model's (log
entries 3 and 4). -/
def Obligations.PushIntoAFullQueueTransfersNothing : Prop :=
  (∀ s : State, wrReady false s = false ↔ s.cfg.depth ≤ s.q.length) ∧
  (∀ s : State, s.cfg.WellFormed → nextTurn s = .push → s.toPush = [] ∨ s.cfg.depth ≤ s.q.length →
    step s = .next { s with turns := s.turns.tail }) ∧
  ∀ s s' : State, s.q.length ≤ s.cfg.depth → (poppedNow s).isSome = true → step s = .next s' →
    s'.q.length + 1 = s.q.length ∧ wrReady false s' = true

/-- TRY_POP removes and returns the head, or returns none at once and changes nothing (R175, R176, R41).
The ring in lockstep is the model's (log entry 10). -/
def Obligations.TryPopTakesTheHeadOrNothing : Prop :=
  (∀ s : State, s.q = [] → fifoTryPop s = (none, s) ∧ rdEmpty s = true) ∧
  ∀ (s : State) (w : Word) (ws : List Word), s.q = w :: ws →
    fifoTryPop s = (some w, { popped s with q := ws }) ∧ rdEmpty s = false ∧ rdData s = some w

/-- A word is popped only on a boundary tick of an EMPTY decoder, at most one a tick; only a push appends (R80, R142, R172,
R180). The clause about what is still to push rests on the model's input field and the word the producer keeps (log
entries 3 and 4). -/
def Obligations.QueueChangesOnlyByPushAndPop : Prop :=
  ∀ s s' : State, step s = .next s' → (nextTurn s).keepsRunning = true →
    (poppedNow s).toList ++ s'.q = s.q ++ (pushedNow s).toList ∧
    (pushedNow s).toList ++ s'.toPush = s.toPush ∧
    (s'.q.length < s.q.length → nextTurn s = .tick ∧ s.t = s.nextT + BitVec.ofNat 32 s.cfg.u ∧ s.decState = .empty)

/-- FIFO order: over any run without reset the words popped, then those still queued, are those queued, then those pushed (R81).
What is still to push is the model's input field, and the kept word its reading of R173 (log entries 3 and 4). -/
def Obligations.WordsArePoppedInTheOrderPushed : Prop :=
  ∀ (n : Nat) (s s' : State), (∀ turn ∈ s.turns, turn.keepsRunning = true) → runFor n s = .next s' →
    overRun poppedNow n s ++ s'.q = s.q ++ overRun pushedNow n s ∧
    overRun pushedNow n s ++ s'.toPush = s.toPush

/-- The reset state of every well-formed build meets the invariant of R50 (R50, R148, R52). -/
def Obligations.ResetMeetsTheInvariant : Prop :=
  ∀ (c : Config) (words : List Word) (turns : List Turn), c.WellFormed →
    Inv { State.resetOf c with toPush := words, turns := turns } ∧
    OutputFollowsTable { State.resetOf c with toPush := words, turns := turns } ∧
    RingHoldsQueue { State.resetOf c with toPush := words, turns := turns }

/-- Every step keeps the invariant of R50: index in the table, decoder consistent, queue within DEPTH, counter in its span (R50, R148). -/
def Obligations.EveryStepKeepsTheInvariant : Prop :=
  ∀ s s' : State, Inv s → step s = .next s' →
    Inv s' ∧
    (s'.nextT = 0 → (s.nextT = 0 ∧ atBoundary s = false) ∨ ∃ a b, nextTurn s = .reset a b)

/-- Every state reachable from reset, under every interleaving and every pushed word, meets the clauses of R50 (R50, R51). -/
def Obligations.ReachableStatesMeetTheInvariant : Prop :=
  ∀ (c : Config) (words : List Word) (turns : List Turn) (n : Nat) (s : State), c.WellFormed →
    runFor n { State.resetOf c with toPush := words, turns := turns } = .next s →
    Inv s ∧ s.t.toNat ≤ max (7 * c.u) (c.f + 1) + c.u

/-- Output as a function of the timeline: inside a tone the sample is ROM[m] at offset m, outside it is 0 (R267, R265, R234, R268). -/
def Obligations.OutputIsTheTableAtTheToneOffset : Prop :=
  ∀ s s' : State, Inv s → OutputFollowsTable s → step s = .next s' → OutputFollowsTable s'

/-- The ring of R41 holds exactly the words of the queue, and every step keeps it so (R41, R42, R79, R178).
The ring in lockstep, for every DEPTH, is the model's (log entry 10). -/
def Obligations.RingRealisesTheQueue : Prop :=
  ∀ s s' : State, s.q.length ≤ s.cfg.depth → RingHoldsQueue s → step s = .next s' → RingHoldsQueue s'

/-- No step writes the configuration: the waveform and duration tables are immutable (R204, R207, R78, R46). -/
def Obligations.NoStepTouchesTheBuild : Prop :=
  ∀ s s' : State, step s = .next s' →
    s'.cfg = s.cfg ∧ (∀ i : Nat, romRead s'.cfg i = romRead s.cfg i) ∧ ∀ k : Kind, dur s'.cfg k = dur s.cfg k

/-- Between ticks nothing of the render side changes and dac_valid is 0 (R269, R43).
`dac_valid` by whole turns is the model's choice (log entry 6). -/
def Obligations.BetweenTicksEverythingHolds : Prop :=
  ∀ s : State, s.cfg.WellFormed → nextTurn s = .quiet →
    step s = .next { s with dacValid := false, turns := s.turns.tail }

/-- A configuration that breaks a constraint is refused, and so is a turn in which the host breaks a duty, RESERVED words
excepted (R294, R330, R241, R231).
The model runs RESERVED words (R150, log entry 5). The refusals are the model's, as R294 asks of a model (log entries 8
and 9). -/
def Obligations.BrokenBuildsAndDutiesAreRefused : Prop :=
  (∀ s : State, ¬ s.cfg.WellFormed → step s = .refused .misconfigured) ∧
  ∀ (s : State) (m : Misuse), s.cfg.WellFormed → nextTurn s = .misuse m → step s = .refused (.hostMisuse m)

/-- The block never stops: from the invariant, with a host that breaks no duty, RESERVED words excepted, every run of every
length answers a next state (R290, R24, R336).
That a push turn at a full queue is a step, that ticks go on after the schedule, and that RESERVED words run, are the
model's (log entries 4, 3 and 5). -/
def Obligations.DutifulRunsNeverStop : Prop :=
  ∀ (n : Nat) (s : State), Inv s → (∀ turn ∈ s.turns, turn.dutiful = true) →
    ∃ s' : State, runFor n s = .next s'

/-- Idle property: a drained block to which nothing is pushed stays drained and outputs 0 for ever (R228, R226, R292). -/
def Obligations.DrainedStaysDrainedAndSilent : Prop :=
  ∀ (n : Nat) (s : State), s.cfg.WellFormed → Drained s → s.toPush = [] →
    (∀ turn ∈ s.turns, turn.keepsRunning = true) → s.dacLeft = 0 → s.dacRight = 0 → s.emitO = false →
    ∃ s' : State, runFor n s = .next s' ∧ Drained s' ∧ s'.dacLeft = 0 ∧ s'.dacRight = 0 ∧ s'.emitO = false

/-- The next boundary tick comes after exactly next_t + G - t ticks, and none before (R233, R229, R222, R51).
An empty schedule, on which ticks go on, is the model's choice (log entry 3). -/
def Obligations.NextBoundaryComesOnTime : Prop :=
  ∀ s : State, Inv s → s.turns = [] →
    (∀ n : Nat, n < untilBoundary s → ∃ s' : State, runFor n s = .next s' ∧ atBoundary s' = false) ∧
    ∃ s' : State, runFor (untilBoundary s) s = .next s' ∧ atBoundary s' = true

/-- The timeline: an element that starts on a boundary tick is followed by the next boundary DUR + G ticks later; after
reset ticks 0 to G-1 are silent whatever is pushed meanwhile, and tick G is the first boundary (R233, R229, R323).
An empty schedule, on which ticks go on, is the model's choice (log entry 3). -/
def Obligations.ElementTimeline : Prop :=
  (∀ (s : State) (k : Kind), s.cfg.WellFormed → s.turns = [] → atBoundary s = true → startedNow s = some k →
    ∀ n : Nat, 1 ≤ n → n ≤ units k * s.cfg.u + s.cfg.u →
      ∃ s' : State, runFor n s = .next s' ∧
        s'.emitO = (isTone k && decide (n ≤ units k * s.cfg.u)) ∧
        atBoundary s' = decide (n = units k * s.cfg.u + s.cfg.u)) ∧
  ∀ (c : Config) (words : List Word) (turns : List Turn), c.WellFormed →
    (∀ turn ∈ turns, turn.keepsRunning = true) → ∀ n : Nat, ticksWithin n turns ≤ c.u →
      ∃ s' : State, runFor n { State.resetOf c with toPush := words, turns := turns } = .next s' ∧
        s'.emitO = false ∧ s'.dacLeft = 0 ∧ s'.dacRight = 0 ∧ s'.t.toNat = ticksWithin n turns ∧
        (atBoundary s' = true ↔ nextTurn s' = .tick ∧ ticksWithin n turns = c.u)

/-- While nothing is available the decoder is asked once every F + 1 + G ticks (R227, R226).
An empty schedule, on which ticks go on, is the model's choice (log entry 3). -/
def Obligations.IdleInterval : Prop :=
  ∀ s : State, s.cfg.WellFormed → s.turns = [] → atBoundary s = true → startedNow s = none →
    ∀ n : Nat, 1 ≤ n → n ≤ s.cfg.f + 1 + s.cfg.u →
      ∃ s' : State, runFor n s = .next s' ∧ s'.emitO = false ∧ s'.dacLeft = 0 ∧ s'.dacRight = 0 ∧
        atBoundary s' = decide (n = s.cfg.f + 1 + s.cfg.u)

/-- A tone of kind k has emit = 1 on exactly DUR[k] consecutive ticks and outputs ROM[0], ROM[1], ..., ROM[DUR[k]-1] (R234).
An empty schedule, on which ticks go on, is the model's choice (log entry 3). -/
def Obligations.TonePlaysTheTableOnce : Prop :=
  ∀ (s : State) (k : Kind), s.cfg.WellFormed → s.turns = [] → atBoundary s = true → startedNow s = some k →
    isTone k = true →
    (∀ m : Nat, m < units k * s.cfg.u →
      ∃ s' : State, runFor (m + 1) s = .next s' ∧ s'.emitO = true ∧ s'.emit = true ∧
        s.cfg.rom[m]? = some s'.dacLeft ∧ s'.dacRight = s'.dacLeft ∧ s'.waveIdx.val = (m + 1) % (3 * s.cfg.u)) ∧
    ∃ s' : State, runFor (units k * s.cfg.u + 1) s = .next s' ∧ s'.emitO = false ∧ s'.dacLeft = 0 ∧
      s'.dacRight = 0

/-- From the start of one word to the boundary that opens the next: the sum of DUR + G over the word's elements (R237, R238, R235, R233).
An empty schedule, on which ticks go on, is the model's choice (log entry 3).
It covers RESERVED words too, whose elements are R150's (log entry 5). -/
def Obligations.LetterStartToLetterStart : Prop :=
  (∀ (s : State) (w : Word) (ws : List Word), s.cfg.WellFormed → s.turns = [] → atBoundary s = true →
    s.decState = .empty → s.q = w :: ws →
    (∃ s' : State,
      runFor ((expandWord w).map (fun k => units k * s.cfg.u + s.cfg.u)).sum s = .next s' ∧
      atBoundary s' = true ∧ s'.decState = .empty ∧ s'.q = ws) ∧
    ∀ n : Nat, 1 ≤ n → n ≤ ((expandWord w).map (fun k => units k * s.cfg.u + s.cfg.u)).sum →
      ∃ s' : State, runFor n s = .next s' ∧ s'.q = ws) ∧
  ∀ (w : Word) (u : Nat), lengthMask w ≠ 0 →
    ((expandWord w).map (fun k => units k * u + u)).sum =
      ((expandWord w).dropLast.map (fun k => units k * u)).sum + (expandWord w).dropLast.length * u + 3 * u + u

/-- Latency: a word in front of an idle block is popped on the next boundary tick, at most F + 1 + G ticks away: the
popping tick is tick `untilBoundary s + 1` from here (R239, R331, R227).
An empty schedule, on which ticks go on, is the model's choice (log entry 3). -/
def Obligations.PushedWordStartsWithinTheIdleInterval : Prop :=
  ∀ (s : State) (w : Word) (ws : List Word), Inv s → s.turns = [] → s.decState = .empty →
    s.nextT = idleSpan s.cfg → s.q = w :: ws →
    untilBoundary s + 1 ≤ s.cfg.f + 1 + s.cfg.u ∧
    (∃ s' : State, runFor (untilBoundary s) s = .next s' ∧ poppedNow s' = some w) ∧
    ∀ m : Nat, m < untilBoundary s → ∃ s' : State, runFor m s = .next s' ∧ s'.q = s.q ∧ poppedNow s' = none

/-- If pushes stop, the block becomes drained after finitely many ticks (R228, R335).
An empty schedule, on which ticks go on, is the model's choice (log entry 3). -/
def Obligations.BlockDrainsWhenPushesStop : Prop :=
  ∀ s : State, Inv s → s.turns = [] → ∃ (n : Nat) (s' : State), runFor n s = .next s' ∧ Drained s'

/-- The elements played are the eager expansion of the words popped, in order, none missing and none extra (R149, R111, R238).
It covers RESERVED words too (log entry 5). -/
def Obligations.ElementStreamIsTheEagerExpansion : Prop :=
  ∀ (n : Nat) (s s' : State), Inv s → s.decState = .empty → (∀ turn ∈ s.turns, turn.keepsRunning = true) →
    runFor n s = .next s' →
    overRun startedNow n s ++ heldElements s' = (overRun poppedNow n s).flatMap expandWord

/-- Everything pushed is played: elements started plus elements pending is elements pending before plus elements pushed (R111, R149, R81, R329).
It covers RESERVED words too (log entry 5). -/
def Obligations.PendingElementsAreConserved : Prop :=
  ∀ (n : Nat) (s s' : State), Inv s → (∀ turn ∈ s.turns, turn.keepsRunning = true) → runFor n s = .next s' →
    overRun startedNow n s ++ pendingElements s' =
      pendingElements s ++ (overRun pushedNow n s).flatMap expandWord

/-- A tick that is not a boundary tick of an EMPTY decoder cannot see the queue or the producer: replaced by any other, it
gives the same render side (R142, R84, R48). The words to push are the model's input field (log entry 3). -/
def Obligations.OnlyAnEmptyDecodersBoundarySeesTheQueue : Prop :=
  ∀ (s s' : State) (queue words : List Word) (ring : Ring), nextTurn s = .tick →
    (atBoundary s = false ∨ s.decState ≠ .empty) → step s = .next s' →
    step { s with q := queue, ring := ring, toPush := words } =
      .next { s' with q := queue, ring := ring, toPush := words }

/-- Unexamined bits never show: two runs whose words expand alike have the same outputs after every number of steps (R107, R111, R149).
It covers RESERVED words too (log entry 5). -/
def Obligations.OutputDependsOnWordsOnlyThroughExpansion : Prop :=
  ∀ (n : Nat) (a b a' : State), Inv a → Inv b → looksAlike a b → runFor n a = .next a' →
    ∃ b' : State, runFor n b = .next b' ∧ looksAlike a' b' ∧ a'.dacLeft = b'.dacLeft ∧
      a'.dacRight = b'.dacRight ∧ a'.dacValid = b'.dacValid ∧ a'.emitO = b'.emitO ∧ a'.t = b'.t ∧
      a'.nextT = b'.nextT ∧ a'.decState = b'.decState

/-- The wave index holds 0 to N-1 and nothing else, and IW, the least width from 1 bit up that N fits, carries it whole
(R10, R36, R76, R262). -/
def Obligations.WaveIndexFitsItsWidth : Prop :=
  ∀ c : Config, c.WellFormed →
    c.entries = 3 * c.u ∧ 1 ≤ c.indexWidth ∧ c.entries ≤ 2 ^ c.indexWidth ∧
    (c.indexWidth = 1 ∨ 2 ^ (c.indexWidth - 1) < c.entries) ∧
    (∀ idx : WaveIndex c, idx.val < c.entries ∧ (romAddr idx).toNat = idx.val) ∧
    ∀ i : Nat, i < c.entries → ∃ idx : WaveIndex c, idx.val = i

/-- INDEX_CLEAR and INDEX_ADVANCE: on every tick the index used is 0 if an element starts, else `wave_idx`; the tick
leaves it one further, modulo N; the sample, if the tone is on, is the entry at the index used (R263, R264). -/
def Obligations.IndexRunsOnEveryTick : Prop :=
  ∀ s s' : State, nextTurn s = .tick → step s = .next s' →
    ∃ idx : Nat, idx = (if (startedNow s).isSome then 0 else s.waveIdx.val) ∧
      s'.waveIdx.val = (if idx + 1 = 3 * s.cfg.u then 0 else idx + 1) ∧ s'.waveIdx.val < 3 * s.cfg.u ∧
      (s'.emit = true → s.cfg.rom[idx]? = some s'.dacLeft) ∧ (s'.emit = false → s'.dacLeft = 0) ∧
      s'.dacRight = s'.dacLeft ∧ s'.emitO = s'.emit

/-- A symbol word packs `length_mask` in bits 3 to 0 and `code_mask` in bits 7 to 4 (R100). -/
def Obligations.SymbolWordPacksTheTwoMasks : Prop :=
  (∀ (w : Word) (k : Nat), k < 4 →
    (lengthMask w).getLsbD k = w.getLsbD k ∧ (codeMask w).getLsbD k = w.getLsbD (4 + k)) ∧
  (∀ w : Word, mkWord (codeMask w) (lengthMask w) = w) ∧
  ∀ code len : Mask, lengthMask (mkWord code len) = len ∧ codeMask (mkWord code len) = code

/-- Every word falls in exactly one of the six legal classes, whose elements it produces in order, or in the class
RESERVED of the eleven other length masks (R104). -/
def Obligations.LegalWordsExpandByTheirClass : Prop :=
  ∀ w : Word,
    if w.extractLsb' 0 4 ∈ reservedRows.map Prod.snd then
      ∀ r ∈ classRows.take 6, w &&& r.mask ≠ r.bits
    else
      ((classRows.take 6).filter (fun r => w &&& r.mask == r.bits)).map
        (fun r => r.elements (w.extractLsb' 4 4)) = [expandWord w]

/-- Rule 1 is tested before rule 2; both conditions hold on one tick only if G = 0, where rule 2 could never fire, and
under G >= 1 at most one holds (R231). -/
def Obligations.EndToneIsTestedBeforeBoundary : Prop :=
  (∀ s : State, s.t = s.nextT → branch s = .endTone) ∧
  (∀ s : State, s.cfg.u < 2 ^ 32 → s.t = s.nextT → s.t = s.nextT + BitVec.ofNat 32 s.cfg.u → s.cfg.u = 0) ∧
  (∀ s : State, s.cfg.u = 0 → branch s ≠ .boundary) ∧
  ∀ s : State, s.cfg.WellFormed → ¬(s.t = s.nextT ∧ s.t = s.nextT + BitVec.ofNat 32 s.cfg.u)

/-- NEXT_ELEMENT in state TONES: the kind is bit 0 of `sym_code`, both masks shift right by one with a zero entering,
TRAIL follows when the whole shifted length mask is zero, and nothing else changes; W shifts clear any mask (R143). -/
def Obligations.TonesHandsOutTheNextTone : Prop :=
  (∀ s : State, s.decState = .tones →
    nextElement s = (some (if s.symCode.getLsbD 0 then .dah else .dit),
      { s with
        symLen := s.symLen >>> 1
        symCode := s.symCode >>> 1
        decState := if s.symLen >>> 1 = 0 then .trail else .tones })) ∧
  (∀ m : Mask, (m >>> 1).getLsbD 3 = false) ∧ ∀ m : Mask, m >>> 1 >>> 1 >>> 1 >>> 1 = 0

/-- The durations are 1, 3, 3 and 7 units and the gap 1 unit, and an element's duration is what its start loads into
`next_t` (R232). -/
def Obligations.DurationsAreTheFixedRatios : Prop :=
  (∀ c : Config, c.WellFormed →
    (dur c .dit).toNat = c.u ∧ (dur c .dah).toNat = 3 * c.u ∧ (dur c .lgap).toNat = 3 * c.u ∧
    (dur c .wgap).toNat = 7 * c.u ∧ (gap c).toNat = c.u) ∧
  ∀ (s s' : State) (k : Kind), startedNow s = some k → step s = .next s' → s'.nextT = dur s.cfg k

/-- A pattern of 1 to W elements written as `.` and `-` stands for the word R100 to R103 give it; a longer one has none
(R116, R100, R101, R102, R103). How runs of pattern characters are told apart is the model's choice (log entry 19). -/
def Obligations.WrittenPatternsStandForTheirWord : Prop :=
  ∀ pattern : List Kind, (∀ k ∈ pattern, isTone k = true) → 1 ≤ pattern.length →
    (pattern.length ≤ 4 → ∃ w : Word, assemble (pattern.map patternChar) = [w] ∧
      lengthMask w = lowBits pattern.length ∧
      (∀ k : Nat, (codeMask w).getLsbD k = decide (pattern[k]? = some .dah)) ∧
      expandWord w = pattern ++ [.lgap]) ∧
    (4 < pattern.length → assemble (pattern.map patternChar) = [])
end

