-- ==== Sys2Proof/Laws/Memory.lean ====
section
/-! SUPPORT. The queue memory: reading after writing, and that writing keeps the canonical form. -/

namespace Sys2Proof.Machine

theorem Memory.read_write_same (m : Memory) (a : Nat) (w : Word) : Memory.read (Memory.write m a w) a = some w := by
  induction m with
  | nil => simp [Memory.write, Memory.read]
  | cons c rest ih =>
    obtain ⟨b, v⟩ := c
    unfold Memory.write
    split
    · simp [Memory.read]
    · split
      · simp [Memory.read]
      · next h => simp [Memory.read, ih, Ne.symm h]

theorem Memory.read_write_other (m : Memory) {a b : Nat} (w : Word) (h : b ≠ a) :
    Memory.read (Memory.write m a w) b = Memory.read m b := by
  induction m with
  | nil => simp [Memory.write, Memory.read, h.symm]
  | cons c rest ih =>
    obtain ⟨d, v⟩ := c
    unfold Memory.write
    split
    · simp [Memory.read, h.symm]
    · split
      · next hd => subst hd; simp [Memory.read, h.symm]
      · simp [Memory.read, ih]

theorem Memory.mem_write {m : Memory} {a : Nat} {w : Word} {c : Host.Cell} (h : c ∈ Memory.write m a w) :
    c = (a, w) ∨ c ∈ m := by
  induction m with
  | nil => simpa [Memory.write] using h
  | cons d rest ih =>
    obtain ⟨b, v⟩ := d
    unfold Memory.write at h
    split at h
    · simpa using h
    · split at h
      · simp only [List.mem_cons] at h ⊢
        tauto
      · simp only [List.mem_cons] at h ⊢
        rcases h with h | h
        · exact .inr (.inl h)
        · rcases ih h with h | h
          · exact .inl h
          · exact .inr (.inr h)

theorem Memory.wf_cons {a : Nat} {v : Word} {rest : Memory} :
    Memory.wf ((a, v) :: rest) = true ↔ (∀ c ∈ rest, a < c.1) ∧ Memory.wf rest = true := by
  simp [Memory.wf]

/-- Writing keeps the canonical form. -/
theorem Memory.write_wf {m : Memory} (h : Memory.wf m = true) (a : Nat) (w : Word) :
    Memory.wf (Memory.write m a w) = true := by
  induction m with
  | nil => simp [Memory.write, Memory.wf]
  | cons d rest ih =>
    obtain ⟨b, v⟩ := d
    rw [Memory.wf_cons] at h
    unfold Memory.write
    split
    · next hab =>
      rw [Memory.wf_cons, Memory.wf_cons]
      refine ⟨?_, h.1, h.2⟩
      simp only [List.mem_cons, forall_eq_or_imp]
      exact ⟨hab, fun c hc => hab.trans (h.1 c hc)⟩
    · split
      · next hab =>
        subst hab
        exact Memory.wf_cons.2 h
      · next h1 h2 =>
        refine Memory.wf_cons.2 ⟨fun c hc => ?_, ih h.2⟩
        rcases Memory.mem_write hc with rfl | hc
        · exact lt_of_le_of_ne (Nat.le_of_not_lt h1) (Ne.symm h2)
        · exact h.1 c hc

/-- Every operation on the ring keeps the canonical form of its memory. -/
theorem Ring.push_wf {r : Ring} (h : Memory.wf r.mem = true) (depth : Nat) (w : Word) :
    Memory.wf (r.push depth w).mem = true := Memory.write_wf h _ _

@[simp] theorem Ring.pop_mem (r : Ring) (depth : Nat) : (r.pop depth).mem = r.mem := rfl

@[simp] theorem Ring.clear_mem (r : Ring) : r.clear.mem = r.mem := rfl

@[simp] theorem Ring.reset_wf : Memory.wf Ring.reset.mem = true := rfl

end Sys2Proof.Machine
end

