-- ==== Sys2Proof/Laws/PerInstr.lean ====
section
/-! SUPPORT. The canonical form of an instruction, constructor by constructor: a letter or a rest mark has the code of the
class row it stands for, and a class row stands for itself. -/

namespace Sys2Proof.Laws

/-- The canonical form has the same code, is well formed if the instruction is, and is its own canonical form. -/
def Canonical.Statement (i : Instr) : Prop :=
  encode (canonical i) = encode i ∧ (canonical i).wellFormed = i.wellFormed ∧
    canonical (canonical i) = canonical i

theorem Canonical.letter1 (code : Mask) : Canonical.Statement (.letter1 code) := ⟨rfl, rfl, rfl⟩
theorem Canonical.letter2 (code : Mask) : Canonical.Statement (.letter2 code) := ⟨rfl, rfl, rfl⟩
theorem Canonical.letter3 (code : Mask) : Canonical.Statement (.letter3 code) := ⟨rfl, rfl, rfl⟩
theorem Canonical.letter4 (code : Mask) : Canonical.Statement (.letter4 code) := ⟨rfl, rfl, rfl⟩
theorem Canonical.restL (code : Mask) : Canonical.Statement (.restL code) := ⟨rfl, rfl, rfl⟩
theorem Canonical.restW (code : Mask) : Canonical.Statement (.restW code) := ⟨rfl, rfl, rfl⟩
theorem Canonical.reserved2 (code : Mask) : Canonical.Statement (.reserved2 code) := ⟨rfl, rfl, rfl⟩
theorem Canonical.reserved4 (code : Mask) : Canonical.Statement (.reserved4 code) := ⟨rfl, rfl, rfl⟩
theorem Canonical.reserved5 (code : Mask) : Canonical.Statement (.reserved5 code) := ⟨rfl, rfl, rfl⟩
theorem Canonical.reserved6 (code : Mask) : Canonical.Statement (.reserved6 code) := ⟨rfl, rfl, rfl⟩
theorem Canonical.reserved8 (code : Mask) : Canonical.Statement (.reserved8 code) := ⟨rfl, rfl, rfl⟩
theorem Canonical.reserved9 (code : Mask) : Canonical.Statement (.reserved9 code) := ⟨rfl, rfl, rfl⟩
theorem Canonical.reservedA (code : Mask) : Canonical.Statement (.reservedA code) := ⟨rfl, rfl, rfl⟩
theorem Canonical.reservedB (code : Mask) : Canonical.Statement (.reservedB code) := ⟨rfl, rfl, rfl⟩
theorem Canonical.reservedC (code : Mask) : Canonical.Statement (.reservedC code) := ⟨rfl, rfl, rfl⟩
theorem Canonical.reservedD (code : Mask) : Canonical.Statement (.reservedD code) := ⟨rfl, rfl, rfl⟩
theorem Canonical.reservedE (code : Mask) : Canonical.Statement (.reservedE code) := ⟨rfl, rfl, rfl⟩
theorem Canonical.dit : Canonical.Statement .dit := ⟨rfl, rfl, rfl⟩
theorem Canonical.dah : Canonical.Statement .dah := ⟨rfl, rfl, rfl⟩
theorem Canonical.lgap : Canonical.Statement .lgap := ⟨rfl, rfl, rfl⟩
theorem Canonical.wgap : Canonical.Statement .wgap := ⟨rfl, rfl, rfl⟩
theorem Canonical.decEmpty : Canonical.Statement .decEmpty := ⟨rfl, rfl, rfl⟩
theorem Canonical.decTones : Canonical.Statement .decTones := ⟨rfl, rfl, rfl⟩
theorem Canonical.decTrail : Canonical.Statement .decTrail := ⟨rfl, rfl, rfl⟩
theorem Canonical.letterA : Canonical.Statement .letterA := ⟨rfl, rfl, rfl⟩
theorem Canonical.letterB : Canonical.Statement .letterB := ⟨rfl, rfl, rfl⟩
theorem Canonical.letterC : Canonical.Statement .letterC := ⟨rfl, rfl, rfl⟩
theorem Canonical.letterD : Canonical.Statement .letterD := ⟨rfl, rfl, rfl⟩
theorem Canonical.letterE : Canonical.Statement .letterE := ⟨rfl, rfl, rfl⟩
theorem Canonical.letterF : Canonical.Statement .letterF := ⟨rfl, rfl, rfl⟩
theorem Canonical.letterG : Canonical.Statement .letterG := ⟨rfl, rfl, rfl⟩
theorem Canonical.letterH : Canonical.Statement .letterH := ⟨rfl, rfl, rfl⟩
theorem Canonical.letterI : Canonical.Statement .letterI := ⟨rfl, rfl, rfl⟩
theorem Canonical.letterJ : Canonical.Statement .letterJ := ⟨rfl, rfl, rfl⟩
theorem Canonical.letterK : Canonical.Statement .letterK := ⟨rfl, rfl, rfl⟩
theorem Canonical.letterL : Canonical.Statement .letterL := ⟨rfl, rfl, rfl⟩
theorem Canonical.letterM : Canonical.Statement .letterM := ⟨rfl, rfl, rfl⟩
theorem Canonical.letterN : Canonical.Statement .letterN := ⟨rfl, rfl, rfl⟩
theorem Canonical.letterO : Canonical.Statement .letterO := ⟨rfl, rfl, rfl⟩
theorem Canonical.letterP : Canonical.Statement .letterP := ⟨rfl, rfl, rfl⟩
theorem Canonical.letterQ : Canonical.Statement .letterQ := ⟨rfl, rfl, rfl⟩
theorem Canonical.letterR : Canonical.Statement .letterR := ⟨rfl, rfl, rfl⟩
theorem Canonical.letterS : Canonical.Statement .letterS := ⟨rfl, rfl, rfl⟩
theorem Canonical.letterT : Canonical.Statement .letterT := ⟨rfl, rfl, rfl⟩
theorem Canonical.letterU : Canonical.Statement .letterU := ⟨rfl, rfl, rfl⟩
theorem Canonical.letterV : Canonical.Statement .letterV := ⟨rfl, rfl, rfl⟩
theorem Canonical.letterW : Canonical.Statement .letterW := ⟨rfl, rfl, rfl⟩
theorem Canonical.letterX : Canonical.Statement .letterX := ⟨rfl, rfl, rfl⟩
theorem Canonical.letterY : Canonical.Statement .letterY := ⟨rfl, rfl, rfl⟩
theorem Canonical.letterZ : Canonical.Statement .letterZ := ⟨rfl, rfl, rfl⟩
theorem Canonical.markWord : Canonical.Statement .markWord := ⟨rfl, rfl, rfl⟩
theorem Canonical.markLetter : Canonical.Statement .markLetter := ⟨rfl, rfl, rfl⟩

end Sys2Proof.Laws
end

