-- ==== Sys2Proof/Laws/State.lean ====
section
/-! SUPPORT. The state's updates, field by field: what each named update writes, and that it leaves every other field
as it was. `waveIdx` has a type over the build, so its lemmas speak of the number it is. -/

namespace Sys2Proof.Machine

/-! ### fifoPush -/

@[simp] theorem fifoPush_cfg (w : Word) (s : State) : (fifoPush w s).cfg = s.cfg := rfl
@[simp] theorem fifoPush_t (w : Word) (s : State) : (fifoPush w s).t = s.t := rfl
@[simp] theorem fifoPush_nextT (w : Word) (s : State) : (fifoPush w s).nextT = s.nextT := rfl
@[simp] theorem fifoPush_emit (w : Word) (s : State) : (fifoPush w s).emit = s.emit := rfl
@[simp] theorem fifoPush_waveIdx (w : Word) (s : State) : (fifoPush w s).waveIdx.val = s.waveIdx.val := rfl
@[simp] theorem fifoPush_decState (w : Word) (s : State) : (fifoPush w s).decState = s.decState := rfl
@[simp] theorem fifoPush_symLen (w : Word) (s : State) : (fifoPush w s).symLen = s.symLen := rfl
@[simp] theorem fifoPush_symCode (w : Word) (s : State) : (fifoPush w s).symCode = s.symCode := rfl
@[simp] theorem fifoPush_q (w : Word) (s : State) : (fifoPush w s).q = s.q ++ [w] := rfl
@[simp] theorem fifoPush_ring (w : Word) (s : State) : (fifoPush w s).ring = s.ring.push s.cfg.depth w := rfl
@[simp] theorem fifoPush_dacLeft (w : Word) (s : State) : (fifoPush w s).dacLeft = s.dacLeft := rfl
@[simp] theorem fifoPush_dacRight (w : Word) (s : State) : (fifoPush w s).dacRight = s.dacRight := rfl
@[simp] theorem fifoPush_dacValid (w : Word) (s : State) : (fifoPush w s).dacValid = s.dacValid := rfl
@[simp] theorem fifoPush_emitO (w : Word) (s : State) : (fifoPush w s).emitO = s.emitO := rfl
@[simp] theorem fifoPush_toPush (w : Word) (s : State) : (fifoPush w s).toPush = s.toPush := rfl
@[simp] theorem fifoPush_turns (w : Word) (s : State) : (fifoPush w s).turns = s.turns := rfl

/-! ### fifoDrop -/

@[simp] theorem fifoDrop_cfg (s : State) : (fifoDrop s).cfg = s.cfg := rfl
@[simp] theorem fifoDrop_t (s : State) : (fifoDrop s).t = s.t := rfl
@[simp] theorem fifoDrop_nextT (s : State) : (fifoDrop s).nextT = s.nextT := rfl
@[simp] theorem fifoDrop_emit (s : State) : (fifoDrop s).emit = s.emit := rfl
@[simp] theorem fifoDrop_waveIdx (s : State) : (fifoDrop s).waveIdx.val = s.waveIdx.val := rfl
@[simp] theorem fifoDrop_decState (s : State) : (fifoDrop s).decState = s.decState := rfl
@[simp] theorem fifoDrop_symLen (s : State) : (fifoDrop s).symLen = s.symLen := rfl
@[simp] theorem fifoDrop_symCode (s : State) : (fifoDrop s).symCode = s.symCode := rfl
@[simp] theorem fifoDrop_q (s : State) : (fifoDrop s).q = s.q.tail := rfl
@[simp] theorem fifoDrop_ring (s : State) : (fifoDrop s).ring = s.ring.pop s.cfg.depth := rfl
@[simp] theorem fifoDrop_dacLeft (s : State) : (fifoDrop s).dacLeft = s.dacLeft := rfl
@[simp] theorem fifoDrop_dacRight (s : State) : (fifoDrop s).dacRight = s.dacRight := rfl
@[simp] theorem fifoDrop_dacValid (s : State) : (fifoDrop s).dacValid = s.dacValid := rfl
@[simp] theorem fifoDrop_emitO (s : State) : (fifoDrop s).emitO = s.emitO := rfl
@[simp] theorem fifoDrop_toPush (s : State) : (fifoDrop s).toPush = s.toPush := rfl
@[simp] theorem fifoDrop_turns (s : State) : (fifoDrop s).turns = s.turns := rfl

/-! ### shiftMasks -/

@[simp] theorem shiftMasks_cfg (len code : Mask) (s : State) : (shiftMasks len code s).cfg = s.cfg := rfl
@[simp] theorem shiftMasks_t (len code : Mask) (s : State) : (shiftMasks len code s).t = s.t := rfl
@[simp] theorem shiftMasks_nextT (len code : Mask) (s : State) : (shiftMasks len code s).nextT = s.nextT := rfl
@[simp] theorem shiftMasks_emit (len code : Mask) (s : State) : (shiftMasks len code s).emit = s.emit := rfl
@[simp] theorem shiftMasks_waveIdx (len code : Mask) (s : State) : (shiftMasks len code s).waveIdx.val = s.waveIdx.val := rfl
@[simp] theorem shiftMasks_decState (len code : Mask) (s : State) : (shiftMasks len code s).decState = if len >>> 1 = 0 then .trail else .tones := rfl
@[simp] theorem shiftMasks_symLen (len code : Mask) (s : State) : (shiftMasks len code s).symLen = len >>> 1 := rfl
@[simp] theorem shiftMasks_symCode (len code : Mask) (s : State) : (shiftMasks len code s).symCode = code >>> 1 := rfl
@[simp] theorem shiftMasks_q (len code : Mask) (s : State) : (shiftMasks len code s).q = s.q := rfl
@[simp] theorem shiftMasks_ring (len code : Mask) (s : State) : (shiftMasks len code s).ring = s.ring := rfl
@[simp] theorem shiftMasks_dacLeft (len code : Mask) (s : State) : (shiftMasks len code s).dacLeft = s.dacLeft := rfl
@[simp] theorem shiftMasks_dacRight (len code : Mask) (s : State) : (shiftMasks len code s).dacRight = s.dacRight := rfl
@[simp] theorem shiftMasks_dacValid (len code : Mask) (s : State) : (shiftMasks len code s).dacValid = s.dacValid := rfl
@[simp] theorem shiftMasks_emitO (len code : Mask) (s : State) : (shiftMasks len code s).emitO = s.emitO := rfl
@[simp] theorem shiftMasks_toPush (len code : Mask) (s : State) : (shiftMasks len code s).toPush = s.toPush := rfl
@[simp] theorem shiftMasks_turns (len code : Mask) (s : State) : (shiftMasks len code s).turns = s.turns := rfl

/-! ### closeLetter -/

@[simp] theorem closeLetter_cfg (s : State) : (closeLetter s).cfg = s.cfg := rfl
@[simp] theorem closeLetter_t (s : State) : (closeLetter s).t = s.t := rfl
@[simp] theorem closeLetter_nextT (s : State) : (closeLetter s).nextT = s.nextT := rfl
@[simp] theorem closeLetter_emit (s : State) : (closeLetter s).emit = s.emit := rfl
@[simp] theorem closeLetter_waveIdx (s : State) : (closeLetter s).waveIdx.val = s.waveIdx.val := rfl
@[simp] theorem closeLetter_decState (s : State) : (closeLetter s).decState = .empty := rfl
@[simp] theorem closeLetter_symLen (s : State) : (closeLetter s).symLen = s.symLen := rfl
@[simp] theorem closeLetter_symCode (s : State) : (closeLetter s).symCode = s.symCode := rfl
@[simp] theorem closeLetter_q (s : State) : (closeLetter s).q = s.q := rfl
@[simp] theorem closeLetter_ring (s : State) : (closeLetter s).ring = s.ring := rfl
@[simp] theorem closeLetter_dacLeft (s : State) : (closeLetter s).dacLeft = s.dacLeft := rfl
@[simp] theorem closeLetter_dacRight (s : State) : (closeLetter s).dacRight = s.dacRight := rfl
@[simp] theorem closeLetter_dacValid (s : State) : (closeLetter s).dacValid = s.dacValid := rfl
@[simp] theorem closeLetter_emitO (s : State) : (closeLetter s).emitO = s.emitO := rfl
@[simp] theorem closeLetter_toPush (s : State) : (closeLetter s).toPush = s.toPush := rfl
@[simp] theorem closeLetter_turns (s : State) : (closeLetter s).turns = s.turns := rfl

/-! ### endTone -/

@[simp] theorem endTone_cfg (s : State) : (endTone s).cfg = s.cfg := rfl
@[simp] theorem endTone_t (s : State) : (endTone s).t = s.t + 1 := rfl
@[simp] theorem endTone_nextT (s : State) : (endTone s).nextT = s.nextT := rfl
@[simp] theorem endTone_emit (s : State) : (endTone s).emit = false := rfl
@[simp] theorem endTone_waveIdx (s : State) : (endTone s).waveIdx.val = s.waveIdx.val := rfl
@[simp] theorem endTone_decState (s : State) : (endTone s).decState = s.decState := rfl
@[simp] theorem endTone_symLen (s : State) : (endTone s).symLen = s.symLen := rfl
@[simp] theorem endTone_symCode (s : State) : (endTone s).symCode = s.symCode := rfl
@[simp] theorem endTone_q (s : State) : (endTone s).q = s.q := rfl
@[simp] theorem endTone_ring (s : State) : (endTone s).ring = s.ring := rfl
@[simp] theorem endTone_dacLeft (s : State) : (endTone s).dacLeft = s.dacLeft := rfl
@[simp] theorem endTone_dacRight (s : State) : (endTone s).dacRight = s.dacRight := rfl
@[simp] theorem endTone_dacValid (s : State) : (endTone s).dacValid = s.dacValid := rfl
@[simp] theorem endTone_emitO (s : State) : (endTone s).emitO = s.emitO := rfl
@[simp] theorem endTone_toPush (s : State) : (endTone s).toPush = s.toPush := rfl
@[simp] theorem endTone_turns (s : State) : (endTone s).turns = s.turns := rfl

/-! ### hold -/

@[simp] theorem hold_cfg (s : State) : (hold s).cfg = s.cfg := rfl
@[simp] theorem hold_t (s : State) : (hold s).t = s.t + 1 := rfl
@[simp] theorem hold_nextT (s : State) : (hold s).nextT = s.nextT := rfl
@[simp] theorem hold_emit (s : State) : (hold s).emit = s.emit := rfl
@[simp] theorem hold_waveIdx (s : State) : (hold s).waveIdx.val = s.waveIdx.val := rfl
@[simp] theorem hold_decState (s : State) : (hold s).decState = s.decState := rfl
@[simp] theorem hold_symLen (s : State) : (hold s).symLen = s.symLen := rfl
@[simp] theorem hold_symCode (s : State) : (hold s).symCode = s.symCode := rfl
@[simp] theorem hold_q (s : State) : (hold s).q = s.q := rfl
@[simp] theorem hold_ring (s : State) : (hold s).ring = s.ring := rfl
@[simp] theorem hold_dacLeft (s : State) : (hold s).dacLeft = s.dacLeft := rfl
@[simp] theorem hold_dacRight (s : State) : (hold s).dacRight = s.dacRight := rfl
@[simp] theorem hold_dacValid (s : State) : (hold s).dacValid = s.dacValid := rfl
@[simp] theorem hold_emitO (s : State) : (hold s).emitO = s.emitO := rfl
@[simp] theorem hold_toPush (s : State) : (hold s).toPush = s.toPush := rfl
@[simp] theorem hold_turns (s : State) : (hold s).turns = s.turns := rfl

/-! ### elementStart -/

@[simp] theorem elementStart_cfg (k : Kind) (s : State) : (elementStart k s).cfg = s.cfg := rfl
@[simp] theorem elementStart_t (k : Kind) (s : State) : (elementStart k s).t = 1 := rfl
@[simp] theorem elementStart_nextT (k : Kind) (s : State) : (elementStart k s).nextT = dur s.cfg k := rfl
@[simp] theorem elementStart_emit (k : Kind) (s : State) : (elementStart k s).emit = kindEmits k := rfl
@[simp] theorem elementStart_waveIdx (k : Kind) (s : State) : (elementStart k s).waveIdx.val = s.waveIdx.val := rfl
@[simp] theorem elementStart_decState (k : Kind) (s : State) : (elementStart k s).decState = s.decState := rfl
@[simp] theorem elementStart_symLen (k : Kind) (s : State) : (elementStart k s).symLen = s.symLen := rfl
@[simp] theorem elementStart_symCode (k : Kind) (s : State) : (elementStart k s).symCode = s.symCode := rfl
@[simp] theorem elementStart_q (k : Kind) (s : State) : (elementStart k s).q = s.q := rfl
@[simp] theorem elementStart_ring (k : Kind) (s : State) : (elementStart k s).ring = s.ring := rfl
@[simp] theorem elementStart_dacLeft (k : Kind) (s : State) : (elementStart k s).dacLeft = s.dacLeft := rfl
@[simp] theorem elementStart_dacRight (k : Kind) (s : State) : (elementStart k s).dacRight = s.dacRight := rfl
@[simp] theorem elementStart_dacValid (k : Kind) (s : State) : (elementStart k s).dacValid = s.dacValid := rfl
@[simp] theorem elementStart_emitO (k : Kind) (s : State) : (elementStart k s).emitO = s.emitO := rfl
@[simp] theorem elementStart_toPush (k : Kind) (s : State) : (elementStart k s).toPush = s.toPush := rfl
@[simp] theorem elementStart_turns (k : Kind) (s : State) : (elementStart k s).turns = s.turns := rfl

/-! ### idlePoll -/

@[simp] theorem idlePoll_cfg (s : State) : (idlePoll s).cfg = s.cfg := rfl
@[simp] theorem idlePoll_t (s : State) : (idlePoll s).t = 1 := rfl
@[simp] theorem idlePoll_nextT (s : State) : (idlePoll s).nextT = idleSpan s.cfg := rfl
@[simp] theorem idlePoll_emit (s : State) : (idlePoll s).emit = false := rfl
@[simp] theorem idlePoll_waveIdx (s : State) : (idlePoll s).waveIdx.val = s.waveIdx.val := rfl
@[simp] theorem idlePoll_decState (s : State) : (idlePoll s).decState = s.decState := rfl
@[simp] theorem idlePoll_symLen (s : State) : (idlePoll s).symLen = s.symLen := rfl
@[simp] theorem idlePoll_symCode (s : State) : (idlePoll s).symCode = s.symCode := rfl
@[simp] theorem idlePoll_q (s : State) : (idlePoll s).q = s.q := rfl
@[simp] theorem idlePoll_ring (s : State) : (idlePoll s).ring = s.ring := rfl
@[simp] theorem idlePoll_dacLeft (s : State) : (idlePoll s).dacLeft = s.dacLeft := rfl
@[simp] theorem idlePoll_dacRight (s : State) : (idlePoll s).dacRight = s.dacRight := rfl
@[simp] theorem idlePoll_dacValid (s : State) : (idlePoll s).dacValid = s.dacValid := rfl
@[simp] theorem idlePoll_emitO (s : State) : (idlePoll s).emitO = s.emitO := rfl
@[simp] theorem idlePoll_toPush (s : State) : (idlePoll s).toPush = s.toPush := rfl
@[simp] theorem idlePoll_turns (s : State) : (idlePoll s).turns = s.turns := rfl

/-! ### present -/

@[simp] theorem present_cfg (s : State) (idx : WaveIndex s.cfg) (v : Sample) :
    (present s idx v).cfg = s.cfg := rfl
@[simp] theorem present_t (s : State) (idx : WaveIndex s.cfg) (v : Sample) :
    (present s idx v).t = s.t := rfl
@[simp] theorem present_nextT (s : State) (idx : WaveIndex s.cfg) (v : Sample) :
    (present s idx v).nextT = s.nextT := rfl
@[simp] theorem present_emit (s : State) (idx : WaveIndex s.cfg) (v : Sample) :
    (present s idx v).emit = s.emit := rfl
@[simp] theorem present_waveIdx (s : State) (idx : WaveIndex s.cfg) (v : Sample) :
    (present s idx v).waveIdx.val = (nextIndex idx).val := rfl
@[simp] theorem present_decState (s : State) (idx : WaveIndex s.cfg) (v : Sample) :
    (present s idx v).decState = s.decState := rfl
@[simp] theorem present_symLen (s : State) (idx : WaveIndex s.cfg) (v : Sample) :
    (present s idx v).symLen = s.symLen := rfl
@[simp] theorem present_symCode (s : State) (idx : WaveIndex s.cfg) (v : Sample) :
    (present s idx v).symCode = s.symCode := rfl
@[simp] theorem present_q (s : State) (idx : WaveIndex s.cfg) (v : Sample) :
    (present s idx v).q = s.q := rfl
@[simp] theorem present_ring (s : State) (idx : WaveIndex s.cfg) (v : Sample) :
    (present s idx v).ring = s.ring := rfl
@[simp] theorem present_dacLeft (s : State) (idx : WaveIndex s.cfg) (v : Sample) :
    (present s idx v).dacLeft = if s.emit then v else 0 := rfl
@[simp] theorem present_dacRight (s : State) (idx : WaveIndex s.cfg) (v : Sample) :
    (present s idx v).dacRight = if s.emit then v else 0 := rfl
@[simp] theorem present_dacValid (s : State) (idx : WaveIndex s.cfg) (v : Sample) :
    (present s idx v).dacValid = true := rfl
@[simp] theorem present_emitO (s : State) (idx : WaveIndex s.cfg) (v : Sample) :
    (present s idx v).emitO = s.emit := rfl
@[simp] theorem present_toPush (s : State) (idx : WaveIndex s.cfg) (v : Sample) :
    (present s idx v).toPush = s.toPush := rfl
@[simp] theorem present_turns (s : State) (idx : WaveIndex s.cfg) (v : Sample) :
    (present s idx v).turns = s.turns := rfl

/-! ### quietCycle -/

@[simp] theorem quietCycle_cfg (s : State) : (quietCycle s).cfg = s.cfg := rfl
@[simp] theorem quietCycle_t (s : State) : (quietCycle s).t = s.t := rfl
@[simp] theorem quietCycle_nextT (s : State) : (quietCycle s).nextT = s.nextT := rfl
@[simp] theorem quietCycle_emit (s : State) : (quietCycle s).emit = s.emit := rfl
@[simp] theorem quietCycle_waveIdx (s : State) : (quietCycle s).waveIdx.val = s.waveIdx.val := rfl
@[simp] theorem quietCycle_decState (s : State) : (quietCycle s).decState = s.decState := rfl
@[simp] theorem quietCycle_symLen (s : State) : (quietCycle s).symLen = s.symLen := rfl
@[simp] theorem quietCycle_symCode (s : State) : (quietCycle s).symCode = s.symCode := rfl
@[simp] theorem quietCycle_q (s : State) : (quietCycle s).q = s.q := rfl
@[simp] theorem quietCycle_ring (s : State) : (quietCycle s).ring = s.ring := rfl
@[simp] theorem quietCycle_dacLeft (s : State) : (quietCycle s).dacLeft = s.dacLeft := rfl
@[simp] theorem quietCycle_dacRight (s : State) : (quietCycle s).dacRight = s.dacRight := rfl
@[simp] theorem quietCycle_dacValid (s : State) : (quietCycle s).dacValid = false := rfl
@[simp] theorem quietCycle_emitO (s : State) : (quietCycle s).emitO = s.emitO := rfl
@[simp] theorem quietCycle_toPush (s : State) : (quietCycle s).toPush = s.toPush := rfl
@[simp] theorem quietCycle_turns (s : State) : (quietCycle s).turns = s.turns := rfl

/-! ### dropTurn -/

@[simp] theorem dropTurn_cfg (s : State) : (dropTurn s).cfg = s.cfg := rfl
@[simp] theorem dropTurn_t (s : State) : (dropTurn s).t = s.t := rfl
@[simp] theorem dropTurn_nextT (s : State) : (dropTurn s).nextT = s.nextT := rfl
@[simp] theorem dropTurn_emit (s : State) : (dropTurn s).emit = s.emit := rfl
@[simp] theorem dropTurn_waveIdx (s : State) : (dropTurn s).waveIdx.val = s.waveIdx.val := rfl
@[simp] theorem dropTurn_decState (s : State) : (dropTurn s).decState = s.decState := rfl
@[simp] theorem dropTurn_symLen (s : State) : (dropTurn s).symLen = s.symLen := rfl
@[simp] theorem dropTurn_symCode (s : State) : (dropTurn s).symCode = s.symCode := rfl
@[simp] theorem dropTurn_q (s : State) : (dropTurn s).q = s.q := rfl
@[simp] theorem dropTurn_ring (s : State) : (dropTurn s).ring = s.ring := rfl
@[simp] theorem dropTurn_dacLeft (s : State) : (dropTurn s).dacLeft = s.dacLeft := rfl
@[simp] theorem dropTurn_dacRight (s : State) : (dropTurn s).dacRight = s.dacRight := rfl
@[simp] theorem dropTurn_dacValid (s : State) : (dropTurn s).dacValid = s.dacValid := rfl
@[simp] theorem dropTurn_emitO (s : State) : (dropTurn s).emitO = s.emitO := rfl
@[simp] theorem dropTurn_toPush (s : State) : (dropTurn s).toPush = s.toPush := rfl
@[simp] theorem dropTurn_turns (s : State) : (dropTurn s).turns = s.turns.tail := rfl

/-! ### resetAll -/

@[simp] theorem resetAll_cfg (s : State) : (resetAll s).cfg = s.cfg := rfl
@[simp] theorem resetAll_t (s : State) : (resetAll s).t = 0 := rfl
@[simp] theorem resetAll_nextT (s : State) : (resetAll s).nextT = 0 := rfl
@[simp] theorem resetAll_emit (s : State) : (resetAll s).emit = false := rfl
@[simp] theorem resetAll_waveIdx (s : State) : (resetAll s).waveIdx.val = 0 := rfl
@[simp] theorem resetAll_decState (s : State) : (resetAll s).decState = .empty := rfl
@[simp] theorem resetAll_symLen (s : State) : (resetAll s).symLen = 0 := rfl
@[simp] theorem resetAll_symCode (s : State) : (resetAll s).symCode = 0 := rfl
@[simp] theorem resetAll_q (s : State) : (resetAll s).q = [] := rfl
@[simp] theorem resetAll_ring (s : State) : (resetAll s).ring = s.ring.clear := rfl
@[simp] theorem resetAll_dacLeft (s : State) : (resetAll s).dacLeft = 0 := rfl
@[simp] theorem resetAll_dacRight (s : State) : (resetAll s).dacRight = 0 := rfl
@[simp] theorem resetAll_dacValid (s : State) : (resetAll s).dacValid = false := rfl
@[simp] theorem resetAll_emitO (s : State) : (resetAll s).emitO = false := rfl
@[simp] theorem resetAll_toPush (s : State) : (resetAll s).toPush = s.toPush := rfl
@[simp] theorem resetAll_turns (s : State) : (resetAll s).turns = s.turns := rfl

/-! ### the wave index -/

theorem wellFormed_unit {c : Config} (h : c.WellFormed) : 1 ≤ c.u := ((Config.wellFormed_iff c).1 h).1

/-- The last index is `N - 1`. -/
theorem lastIndex_succ {c : Config} (h : c.WellFormed) : c.lastIndex + 1 = tableLen c := by
  have := wellFormed_unit h
  show 3 * c.u - 1 + 1 = 3 * c.u
  omega

/-- R50 (a), by the type of the index. -/
theorem index_lt {c : Config} (h : c.WellFormed) (idx : WaveIndex c) : idx.val < tableLen c := lastIndex_succ h ▸ idx.isLt

theorem indexInTable {s : State} (h : s.cfg.WellFormed) : IndexInTable s := index_lt h s.waveIdx

/-- INDEX_ADVANCE is the addition of `WaveIndex` (R264). -/
theorem nextIndex_eq {c : Config} (h : c.WellFormed) (idx : WaveIndex c) : nextIndex idx = idx + 1 := by
  unfold nextIndex
  split
  · next hn =>
    have hl : idx = Fin.last c.lastIndex := Fin.ext (by have := lastIndex_succ h; simp only [Fin.val_last]; omega)
    rw [hl, Fin.last_add_one]
  · rfl

/-- The same on natural numbers: `(idx + 1) mod N`. -/
theorem nextIndex_val {c : Config} (h : c.WellFormed) (idx : WaveIndex c) :
    (nextIndex idx).val = (idx.val + 1) % tableLen c := by
  have hlt := index_lt h idx
  rw [nextIndex_eq h, Fin.val_add_one, ← lastIndex_succ h]
  split
  · next hl => simp [hl]
  · next hl =>
    have := idx.isLt
    have : idx.val ≠ c.lastIndex := fun e => hl (Fin.ext e)
    rw [Nat.mod_eq_of_lt (by omega)]

end Sys2Proof.Machine
end

