-- ==== Sys2Proof/Laws/Step.lean ====
section
/-! SUPPORT. What a step, a tick and an instruction can do, said once: the inversion lemmas and the spec lemmas of the
shared operations. -/

namespace Sys2Proof.Machine

/-- The table is read inside its bounds: a sample comes out and the tick completes. -/
theorem generate_eq {s : State} {el : Bool} (h : (readIndex el s).val < s.cfg.rom.length) :
    generate el s = .next (present s (readIndex el s) s.cfg.rom[(readIndex el s).val]) := by
  simp [generate, romRead, List.getElem?_eq_getElem h]

/-- All a completed table read can be. -/
theorem generate_next {s s' : State} {el : Bool} (h : generate el s = .next s') :
    ∃ v, romRead s.cfg (readIndex el s).val = some v ∧ s' = present s (readIndex el s) v := by
  unfold generate at h
  split at h
  · cases h
  · next v hv => exact ⟨v, hv, by simpa using h.symm⟩

theorem generate_no_fault {s : State} {el : Bool} (r : Fault) : generate el s ≠ .fault r := nomatch r

@[simp] theorem readIndex_true (s : State) : readIndex true s = 0 := rfl

@[simp] theorem readIndex_false (s : State) : readIndex false s = s.waveIdx := rfl

theorem fifoTryPop_nil {s : State} (h : s.q = []) : fifoTryPop s = (none, s) := by simp [fifoTryPop, h]

theorem fifoTryPop_cons {s : State} {w : Word} {ws : List Word} (h : s.q = w :: ws) :
    fifoTryPop s = (some w, fifoDrop s) := by simp [fifoTryPop, h]

theorem openWord_rest {w : Word} (h : lengthMask w = 0) (s : State) :
    openWord w s = (restOf (codeMask w), s) := by simp [openWord, h]

theorem openWord_letter {w : Word} (h : lengthMask w ≠ 0) (s : State) :
    openWord w s = (toneOf (codeMask w), shiftMasks (lengthMask w) (codeMask w) s) := if_neg h

theorem wordTick_eq (w : Word) (s : State) :
    wordTick w s =
      if lengthMask w = 0 then restTick (codeMask w) s else toneTick (lengthMask w) (codeMask w) s := by
  unfold wordTick openWord
  split <;> rfl

/-- Every symbol word's row means what the word means when it is popped. -/
theorem exec_decodeWord (w : Word) (s : State) : exec (decodeWord w) s = wordTick w s := by
  have masks : ∀ m : Mask, m = 0 ∨ m = 1 ∨ m = 2 ∨ m = 3 ∨ m = 4 ∨ m = 5 ∨ m = 6 ∨ m = 7 ∨ m = 8 ∨ m = 9 ∨
      m = 10 ∨ m = 11 ∨ m = 12 ∨ m = 13 ∨ m = 14 ∨ m = 15 := by decide
  rw [wordTick_eq]
  unfold decodeWord
  generalize codeMask w = code
  rcases masks (lengthMask w) with h | h | h | h | h | h | h | h | h | h | h | h | h | h | h | h <;> rw [h] <;>
    first
    | rfl
    | (cases hc : code.getLsbD 0 <;> rfl)

/-- A boundary tick that starts an element in a state that differs from `s` in the decoder's registers at most. -/
def StartsIn (s : State) (o : Outcome) : Prop :=
  ∃ k e, o = startTick k e ∧ e = { s with decState := e.decState, symLen := e.symLen, symCode := e.symCode }

theorem toneTick_starts (len code : Mask) (s : State) : StartsIn s (toneTick len code s) :=
  ⟨toneOf code, shiftMasks len code s, rfl, rfl⟩

theorem restTick_starts (code : Mask) (s : State) : StartsIn s (restTick code s) := ⟨restOf code, s, rfl, rfl⟩

theorem wordTick_starts (w : Word) (s : State) : StartsIn s (wordTick w s) := by
  rw [wordTick_eq]
  split
  · exact restTick_starts _ _
  · exact toneTick_starts _ _ _

/-- Every instruction but DEC_EMPTY starts an element, and touches nothing but the decoder's registers before it. -/
theorem exec_starts (i : Instr) (h : i ≠ .decEmpty) (s : State) : StartsIn s (exec i s) := by
  cases i with
  | decEmpty => exact absurd rfl h
  | letter1 code => exact toneTick_starts _ _ _
  | letter2 code => exact toneTick_starts _ _ _
  | letter3 code => exact toneTick_starts _ _ _
  | letter4 code => exact toneTick_starts _ _ _
  | restL code => exact restTick_starts _ _
  | restW code => exact restTick_starts _ _
  | reserved2 code => exact toneTick_starts _ _ _
  | reserved4 code => exact toneTick_starts _ _ _
  | reserved5 code => exact toneTick_starts _ _ _
  | reserved6 code => exact toneTick_starts _ _ _
  | reserved8 code => exact toneTick_starts _ _ _
  | reserved9 code => exact toneTick_starts _ _ _
  | reservedA code => exact toneTick_starts _ _ _
  | reservedB code => exact toneTick_starts _ _ _
  | reservedC code => exact toneTick_starts _ _ _
  | reservedD code => exact toneTick_starts _ _ _
  | reservedE code => exact toneTick_starts _ _ _
  | dit => exact ⟨.dit, s, rfl, rfl⟩
  | dah => exact ⟨.dah, s, rfl, rfl⟩
  | lgap => exact ⟨.lgap, s, rfl, rfl⟩
  | wgap => exact ⟨.wgap, s, rfl, rfl⟩
  | decTones => exact toneTick_starts _ _ _
  | decTrail => exact ⟨.lgap, closeLetter s, rfl, rfl⟩
  | _ => exact wordTick_starts _ _

/-- DEC_EMPTY: an idle tick with nothing queued, else the head word's tick. -/
theorem exec_decEmpty (s : State) :
    (s.q = [] ∧ exec .decEmpty s = idleTick s) ∨
    (∃ w ws, s.q = w :: ws ∧ exec .decEmpty s = wordTick w (fifoDrop s)) := by
  cases h : s.q with
  | nil => exact .inl ⟨rfl, by simp [exec, execDecEmpty, fifoTryPop_nil h]⟩
  | cons w ws => exact .inr ⟨w, ws, rfl, by simp [exec, execDecEmpty, fifoTryPop_cons h]⟩

/-- A boundary tick is the decoder's answer played: R224 as the spec writes it. -/
theorem exec_fetch (s : State) :
    exec (fetch s).1 (fetch s).2 =
      match nextElement s with
      | (some k, s') => startTick k s'
      | (none, s') => idleTick s' := by
  unfold fetch nextElement
  cases hd : s.decState with
  | tones => rfl
  | trail => rfl
  | empty =>
    cases hq : s.q with
    | nil => simp [fifoTryPop_nil hq, exec, execDecEmpty]
    | cons w ws => simp [fifoTryPop_cons hq, exec_decodeWord, wordTick]

/-- All a completed tick can be: END_TONE, HOLD, the start of an element, or an idle poll. -/
theorem tick_cases {s s' : State} (h : tick s = .next s') :
    (branch s = .endTone ∧ ∃ v, romRead s.cfg s.waveIdx.val = some v ∧
      s' = present (endTone s) (endTone s).waveIdx v) ∨
    (branch s = .hold ∧ ∃ v, romRead s.cfg s.waveIdx.val = some v ∧ s' = present (hold s) (hold s).waveIdx v) ∨
    (branch s = .boundary ∧ ∃ k e v, nextElement s = (some k, e) ∧ romRead e.cfg 0 = some v ∧
      s' = present (elementStart k e) 0 v) ∨
    (branch s = .boundary ∧ ∃ e v, nextElement s = (none, e) ∧ romRead e.cfg e.waveIdx.val = some v ∧
      s' = present (idlePoll e) (idlePoll e).waveIdx v) := by
  unfold tick at h
  split at h
  · next hb =>
    obtain ⟨v, hv, rfl⟩ := generate_next h
    exact .inl ⟨hb, v, hv, rfl⟩
  · next hb =>
    obtain ⟨v, hv, rfl⟩ := generate_next h
    exact .inr (.inl ⟨hb, v, hv, rfl⟩)
  · next hb =>
    rw [exec_fetch] at h
    split at h
    · next k e he =>
      obtain ⟨v, hv, rfl⟩ := generate_next h
      exact .inr (.inr (.inl ⟨hb, k, e, v, he, hv, rfl⟩))
    · next e he =>
      obtain ⟨v, hv, rfl⟩ := generate_next h
      exact .inr (.inr (.inr ⟨hb, e, v, he, hv, rfl⟩))

/-- All a step that answers a next state can be. -/
theorem step_cases {s s' : State} (h : step s = .next s') :
    s.cfg.WellFormed ∧
    ((nextTurn s = .tick ∧ tick (dropTurn s) = .next s') ∨
     (nextTurn s = .push ∧ s' = producerTurn (dropTurn s)) ∨
     (nextTurn s = .quiet ∧ s' = quietCycle (dropTurn s)) ∨
     (∃ a b, nextTurn s = .reset a b ∧ s' = resetAll (dropTurn s))) := by
  unfold step turnStep at h
  split at h
  · next hw =>
    refine ⟨hw, ?_⟩
    unfold takeTurn at h
    split at h
    · next ht => exact .inl ⟨ht, h⟩
    · next ht => exact .inr (.inl ⟨ht, by simpa using h.symm⟩)
    · next ht => exact .inr (.inr (.inl ⟨ht, by simpa using h.symm⟩))
    · next a b ht => exact .inr (.inr (.inr ⟨a, b, ht, by simpa using h.symm⟩))
    · cases h
  · cases h

/-- All the decoder can answer (R142 to R147). -/
theorem nextElement_cases (s : State) :
    (s.decState = .tones ∧ nextElement s = (some (toneOf s.symCode), shiftMasks s.symLen s.symCode s)) ∨
    (s.decState = .trail ∧ nextElement s = (some .lgap, closeLetter s)) ∨
    (s.decState = .empty ∧ s.q = [] ∧ nextElement s = (none, s)) ∨
    (∃ w ws, s.decState = .empty ∧ s.q = w :: ws ∧ lengthMask w = 0 ∧
      nextElement s = (some (restOf (codeMask w)), fifoDrop s)) ∨
    (∃ w ws, s.decState = .empty ∧ s.q = w :: ws ∧ lengthMask w ≠ 0 ∧
      nextElement s = (some (toneOf (codeMask w)), shiftMasks (lengthMask w) (codeMask w) (fifoDrop s))) := by
  unfold nextElement
  cases hd : s.decState with
  | tones => exact .inl ⟨rfl, rfl⟩
  | trail => exact .inr (.inl ⟨rfl, rfl⟩)
  | empty =>
    cases hq : s.q with
    | nil => exact .inr (.inr (.inl ⟨rfl, rfl, by simp [fifoTryPop_nil hq]⟩))
    | cons w ws =>
      by_cases hl : lengthMask w = 0
      · exact .inr (.inr (.inr (.inl ⟨w, ws, rfl, rfl, hl, by simp [fifoTryPop_cons hq, openWord_rest hl]⟩)))
      · exact .inr (.inr (.inr (.inr ⟨w, ws, rfl, rfl, hl, by simp [fifoTryPop_cons hq, openWord_letter hl]⟩)))

/-- The producer's turn, in full (R172, R173). -/
theorem producerTurn_cases (s : State) :
    (s.toPush = [] ∧ producerTurn s = s) ∨
    (∃ w ws, s.toPush = w :: ws ∧ s.cfg.depth ≤ s.q.length ∧ producerTurn s = s) ∨
    (∃ w ws, s.toPush = w :: ws ∧ s.q.length < s.cfg.depth ∧
      producerTurn s = { fifoPush w s with toPush := ws }) := by
  unfold producerTurn
  cases h : s.toPush with
  | nil => exact .inl ⟨rfl, rfl⟩
  | cons w ws =>
    by_cases hr : s.q.length < s.cfg.depth
    · exact .inr (.inr ⟨w, ws, rfl, hr, by simp [wrReady, hr]⟩)
    · exact .inr (.inl ⟨w, ws, rfl, Nat.le_of_not_lt hr, by simp [wrReady, hr]⟩)

end Sys2Proof.Machine
end

