-- ==== Sys2Proof/Laws/Run.lean ====
section
/-! SUPPORT. Runs: one step at a time, one after another, and what a look over a run sees. -/

namespace Sys2Proof.Machine

@[simp] theorem runFor_zero (s : State) : runFor 0 s = .next s := rfl

/-- A run of `n + 1` steps, by its first step. -/
theorem runFor_succ_eq (n : Nat) (s : State) :
    runFor (n + 1) s =
      match step s with
      | .next s' => runFor n s'
      | .fault r => .fault r
      | .refused r => .refused r := by
  refine (Host.Core.run.eq_2 Sys2Proof.core s n).trans ?_
  rw [show Sys2Proof.core.step s = step s from rfl]
  rcases step s with s' | r | r <;> rfl

theorem runFor_succ_of_next {s s' : State} (h : step s = .next s') (n : Nat) : runFor (n + 1) s = runFor n s' := by
  rw [runFor_succ_eq, h]

/-- A run of `n + 1` steps is a step and then a run of `n`. -/
theorem runFor_succ {s s'' : State} {n : Nat} (h : runFor (n + 1) s = .next s'') :
    ∃ s', step s = .next s' ∧ runFor n s' = .next s'' := by
  rw [runFor_succ_eq] at h
  split at h
  · next s' hs => exact ⟨s', hs, h⟩
  · cases h
  · cases h

/-- Runs follow one another. -/
theorem runFor_add {s s' : State} {m : Nat} (h : runFor m s = .next s') (n : Nat) :
    runFor (m + n) s = runFor n s' := by
  induction m generalizing s with
  | zero =>
    obtain rfl : s = s' := by simpa using h
    rw [Nat.zero_add]
  | succ m ih =>
    obtain ⟨s₁, h₁, h₂⟩ := runFor_succ h
    rw [Nat.succ_add, runFor_succ_of_next h₁, ih h₂]

@[simp] theorem overRun_zero {α : Type} (look : State → Option α) (s : State) : overRun look 0 s = [] := rfl

theorem overRun_succ {α : Type} (look : State → Option α) {s s' : State} (h : step s = .next s') (n : Nat) :
    overRun look (n + 1) s = (look s).toList ++ overRun look n s' := by
  simp [overRun, h]

/-- The turn after a step of a schedule without reset is again no reset. -/
theorem turns_tail_forall {p : Turn → Bool} {s : State} (h : ∀ turn ∈ s.turns, p turn = true) :
    ∀ turn ∈ s.turns.tail, p turn = true := fun turn ht => h turn (List.mem_of_mem_tail ht)

/-- Every step takes exactly one turn off the schedule. -/
theorem step_turns {s s' : State} (h : step s = .next s') : s'.turns = s.turns.tail := by
  obtain ⟨-, ⟨-, ht⟩ | ⟨-, rfl⟩ | ⟨-, rfl⟩ | ⟨_, _, -, rfl⟩⟩ := step_cases h
  · rcases tick_cases ht with ⟨-, v, -, rfl⟩ | ⟨-, v, -, rfl⟩ | ⟨-, k, e, v, he, -, rfl⟩ | ⟨-, e, v, he, -, rfl⟩
    · rfl
    · rfl
    all_goals
      rcases nextElement_cases (dropTurn s) with ⟨-, h⟩ | ⟨-, h⟩ | ⟨-, -, h⟩ | ⟨_, _, -, -, -, h⟩ | ⟨_, _, -, -, -, h⟩ <;>
        rw [h] at he <;> cases he <;> rfl
  · rcases producerTurn_cases (dropTurn s) with ⟨-, h⟩ | ⟨_, _, -, -, h⟩ | ⟨_, _, -, -, h⟩ <;> rw [h] <;> rfl
  · rfl
  · rfl

end Sys2Proof.Machine
end

