-- ==== Sys2Proof/Tests/Slice0.lean ====
section
/-! SUPPORT. The model's own tests. Expected values come from spec/: the encodings of spec/30_encoding.md, and the
vectors V1 to V53 and programs P1 to P7 of spec/95_test_vectors.md, named at each test. The second half gives, for every
obligation with hypotheses, a state and operands that meet them. -/

namespace Sys2Proof.Tests

open Sys2Proof.Machine Sys2Proof.Claims

/-! ### helpers -/

/-- The state an outcome answers, if it answers one. -/
def after (o : Outcome) : Option State :=
  match o with
  | .next s => some s
  | .fault _ => none
  | .refused _ => none

/-- A small well-formed build: U = 1, F = 2, DEPTH = 2, the table 0, 5, -5. -/
def tiny : Config := { u := 1, f := 2, fs := 8, freq := 1, depth := 2, rom := [0, 5, -5] }

/-- The reset state of the vector configuration with the registers a vector row names:
(`t`, `next_t`, `emit`, `wave_idx`, `dec_state`, `sym_len`, `sym_code`, `q`). -/
def at8 (t nextT : Counter) (emit : Bool) (waveIdx : Nat) (dec : DecState) (len code : Mask) (q : List Word) : State :=
  { State.reset with
    t := t, nextT := nextT, emit := emit, waveIdx := Fin.ofNat _ waveIdx, decState := dec, symLen := len, symCode := code, q := q }

/-- What a vector row of spec/95 shows of a state, in its order. -/
structure Row where
  /-- `t`. -/
  t : Counter
  /-- `next_t`. -/
  nextT : Counter
  /-- `emit`. -/
  emit : Bool
  /-- `wave_idx`. -/
  waveIdx : Nat
  /-- `dec_state`. -/
  decState : DecState
  /-- `sym_len`. -/
  symLen : Mask
  /-- `sym_code`. -/
  symCode : Mask
  /-- `q`. -/
  q : List Word
  deriving DecidableEq

/-- The outputs. -/
structure Out where
  /-- `dac_left`. -/
  left : Sample
  /-- `dac_right`. -/
  right : Sample
  /-- `dac_valid`. -/
  valid : Bool
  /-- `emit_o`. -/
  window : Bool
  deriving DecidableEq

/-- The row of a state. -/
def row (s : State) : Row := ⟨s.t, s.nextT, s.emit, s.waveIdx.val, s.decState, s.symLen, s.symCode, s.q⟩

/-- The outputs of a state. -/
def out (s : State) : Out := ⟨s.dacLeft, s.dacRight, s.dacValid, s.emitO⟩

/-- The reset state of the small build, at the given place of its timeline. -/
def small (t nextT : Counter) (emit : Bool) (waveIdx : Nat) (dec : DecState) (len code : Mask) (q : List Word) : State :=
  { State.resetOf tiny with
    t := t, nextT := nextT, emit := emit, waveIdx := Fin.ofNat _ waveIdx, decState := dec, symLen := len, symCode := code, q := q }

/-! ### well-formedness: one ill-formed term for each check -/

theorem test_vector_wellFormed : Config.vector.WellFormed := by decide
theorem test_tiny_wellFormed : tiny.WellFormed := by decide
theorem test_refuses_unit_zero : Config.wellFormed { tiny with u := 0, rom := [] } = false := by decide
theorem test_refuses_rate_zero : Config.wellFormed { tiny with fs := 0 } = false := by decide
theorem test_refuses_frequency_zero : Config.wellFormed { tiny with freq := 0 } = false := by decide
theorem test_refuses_depth_zero : Config.wellFormed { tiny with depth := 0 } = false := by decide
theorem test_refuses_wide_counter : Config.wellFormed { tiny with f := 2 ^ 32 - 2 } = false := by decide
theorem test_refuses_short_table : Config.wellFormed { tiny with rom := [0, 5] } = false := by decide
theorem test_refuses_table_not_from_zero : Config.wellFormed { tiny with rom := [1, 5, -5] } = false := by decide
theorem test_refuses_loud_table : Config.wellFormed { tiny with rom := [0, 16385, -5] } = false := by decide
theorem test_accepts_loudest_table : Config.wellFormed { tiny with rom := [0, 16384, -16384] } = true := by decide
theorem test_refuses_restL_of_word_gap : Instr.wellFormed (.restL 0b0001) = false := by decide
theorem test_refuses_restW_of_letter_gap : Instr.wellFormed (.restW 0b1110) = false := by decide

/-- V22: the extremes of the table, and V20's entries past the first half. -/
theorem test_rom_entries :
    ([0, 25, 49, 50, 51, 75, 99, 100, 125, 149].map (romRead Config.vector)) =
      [some 0, some 16384, some 1029, some 0, some (-1029), some (-16384), some (-1029), some 0, some 16384,
        some 1029] := by decide

/-- R10, R36: N = 150 takes 8 bits, and the least table, N = 3, takes 2. -/
theorem test_index_width : Config.vector.indexWidth = 8 ∧ tiny.indexWidth = 2 := by decide

/-! ### decoding: words written out from the encodings of R104, R105, R37 -/

/-- R104: LETTER1 to LETTER4, with the unexamined bits of V4. -/
theorem test_decode_letters :
    decode (.word 0b00000001) = .ok (.letter1 0b0000) ∧
    decode (.word 0b11100001) = .ok (.letter1 0b1110) ∧
    decode (.word 0b11110001) = .ok (.letter1 0b1111) ∧
    decode (.word 0b00100011) = .ok (.letter2 0b0010) ∧
    decode (.word 0b10100011) = .ok (.letter2 0b1010) ∧
    decode (.word 0b00100111) = .ok (.letter3 0b0010) ∧
    decode (.word 0b10001111) = .ok (.letter4 0b1000) := by decide

/-- R104, V4: REST_L and REST_W. -/
theorem test_decode_rests :
    decode (.word 0b00000000) = .ok (.restL 0b0000) ∧
    decode (.word 0b11100000) = .ok (.restL 0b1110) ∧
    decode (.word 0b00010000) = .ok (.restW 0b0001) ∧
    decode (.word 0b11110000) = .ok (.restW 0b1111) := by decide

/-- R108: the eleven RESERVED masks; four of the words are V6's. -/
theorem test_decode_reserved :
    decode (.word 0b00000010) = .ok (.reserved2 0b0000) ∧
    decode (.word 0b01110100) = .ok (.reserved4 0b0111) ∧
    decode (.word 0b00100101) = .ok (.reserved5 0b0010) ∧
    decode (.word 0b01010110) = .ok (.reserved6 0b0101) ∧
    decode (.word 0b00011000) = .ok (.reserved8 0b0001) ∧
    decode (.word 0b10101001) = .ok (.reserved9 0b1010) ∧
    decode (.word 0b11111010) = .ok (.reservedA 0b1111) ∧
    decode (.word 0b10001011) = .ok (.reservedB 0b1000) ∧
    decode (.word 0b11111100) = .ok (.reservedC 0b1111) ∧
    decode (.word 0b11101101) = .ok (.reservedD 0b1110) ∧
    decode (.word 0b11011110) = .ok (.reservedE 0b1101) := by decide

/-- R105: the four element-kind codes. -/
theorem test_decode_kinds :
    decode (.kind 0b00) = .ok .dit ∧
    decode (.kind 0b01) = .ok .dah ∧
    decode (.kind 0b10) = .ok .lgap ∧
    decode (.kind 0b11) = .ok .wgap := by decide

/-- R37: three codes of `dec_state`; 0b11 is rejected by name. -/
theorem test_decode_decoder_states :
    decode (.dec 0b00) = .ok .decEmpty ∧
    decode (.dec 0b01) = .ok .decTones ∧
    decode (.dec 0b10) = .ok .decTrail ∧
    decode (.dec 0b11) = .error .unusedDecState := by decide

/-- R110: one word a byte; no byte, no word. -/
theorem test_decode_bytes :
    decodeBytes [] = .error .noWord ∧
    decodeBytes [0x23, 0x1F] = .ok (.letter2 0b0010, [0x1F]) := by decide

/-- R114, V7: the words of the letters, and the class row each decodes to. -/
theorem test_letter_words_A_to_I :
    encode .letterA = .word 0b00100011 ∧
    decode (.word 0b00100011) = .ok (.letter2 0b0010) ∧
    encode .letterB = .word 0b00011111 ∧
    decode (.word 0b00011111) = .ok (.letter4 0b0001) ∧
    encode .letterC = .word 0b01011111 ∧
    decode (.word 0b01011111) = .ok (.letter4 0b0101) ∧
    encode .letterD = .word 0b00010111 ∧
    decode (.word 0b00010111) = .ok (.letter3 0b0001) ∧
    encode .letterE = .word 0b00000001 ∧
    decode (.word 0b00000001) = .ok (.letter1 0b0000) ∧
    encode .letterF = .word 0b01001111 ∧
    decode (.word 0b01001111) = .ok (.letter4 0b0100) ∧
    encode .letterG = .word 0b00110111 ∧
    decode (.word 0b00110111) = .ok (.letter3 0b0011) ∧
    encode .letterH = .word 0b00001111 ∧
    decode (.word 0b00001111) = .ok (.letter4 0b0000) ∧
    encode .letterI = .word 0b00000011 ∧
    decode (.word 0b00000011) = .ok (.letter2 0b0000) := by decide

/-- R114, V7: the words of the letters, and the class row each decodes to. -/
theorem test_letter_words_J_to_R :
    encode .letterJ = .word 0b11101111 ∧
    decode (.word 0b11101111) = .ok (.letter4 0b1110) ∧
    encode .letterK = .word 0b01010111 ∧
    decode (.word 0b01010111) = .ok (.letter3 0b0101) ∧
    encode .letterL = .word 0b00101111 ∧
    decode (.word 0b00101111) = .ok (.letter4 0b0010) ∧
    encode .letterM = .word 0b00110011 ∧
    decode (.word 0b00110011) = .ok (.letter2 0b0011) ∧
    encode .letterN = .word 0b00010011 ∧
    decode (.word 0b00010011) = .ok (.letter2 0b0001) ∧
    encode .letterO = .word 0b01110111 ∧
    decode (.word 0b01110111) = .ok (.letter3 0b0111) ∧
    encode .letterP = .word 0b01101111 ∧
    decode (.word 0b01101111) = .ok (.letter4 0b0110) ∧
    encode .letterQ = .word 0b10111111 ∧
    decode (.word 0b10111111) = .ok (.letter4 0b1011) ∧
    encode .letterR = .word 0b00100111 ∧
    decode (.word 0b00100111) = .ok (.letter3 0b0010) := by decide

/-- R114, V7: the words of the letters, and the class row each decodes to. -/
theorem test_letter_words_S_to_Z :
    encode .letterS = .word 0b00000111 ∧
    decode (.word 0b00000111) = .ok (.letter3 0b0000) ∧
    encode .letterT = .word 0b00010001 ∧
    decode (.word 0b00010001) = .ok (.letter1 0b0001) ∧
    encode .letterU = .word 0b01000111 ∧
    decode (.word 0b01000111) = .ok (.letter3 0b0100) ∧
    encode .letterV = .word 0b10001111 ∧
    decode (.word 0b10001111) = .ok (.letter4 0b1000) ∧
    encode .letterW = .word 0b01100111 ∧
    decode (.word 0b01100111) = .ok (.letter3 0b0110) ∧
    encode .letterX = .word 0b10011111 ∧
    decode (.word 0b10011111) = .ok (.letter4 0b1001) ∧
    encode .letterY = .word 0b11011111 ∧
    decode (.word 0b11011111) = .ok (.letter4 0b1101) ∧
    encode .letterZ = .word 0b00111111 ∧
    decode (.word 0b00111111) = .ok (.letter4 0b0011) := by decide

/-- R116: the rest marks. -/
theorem test_mark_words :
    encode .markWord = .word 0b00010000 ∧
    decode (.word 0b00010000) = .ok (.restW 0b0001) ∧
    encode .markLetter = .word 0b00000000 ∧
    decode (.word 0b00000000) = .ok (.restL 0b0000) := by decide

/-- R116, P4: one word a character; an unmapped character pushes nothing (R113). -/
theorem test_assemble :
    assemble ['E', '_', 'T'] = [0x01, 0x10, 0x11] ∧
    assemble ['A', '1', 'B'] = [0x23, 0x1F] := by decide

/-- R116, R115: patterns written directly; five elements have no word (R114). -/
theorem test_assemble_patterns :
    assemble ['.', '-'] = [0x23] ∧
    assemble ['.', ' ', '-', 'A'] = [0x01, 0x11, 0x23] ∧
    assemble ['-', '-', '-', '-', '-', '_'] = [0x10] := by decide

/-- The host's numbering of table words. -/
theorem test_table_words :
    decodeTableWord 8 0x23 = some (.letter2 0b0010) ∧
    decodeTableWord 2 3 = some .wgap ∧
    decodeTableWord 8 256 = none := by decide

/-- V4, V6, V34: expansions of words, reserved ones among them. -/
theorem test_expansions :
    expandWord 0xE1 = [.dit, .lgap] ∧
    expandWord 0xA3 = [.dit, .dah, .lgap] ∧
    expandWord 0xF0 = [.wgap] ∧
    expandWord 0xE0 = [.lgap] ∧
    expandWord 0x25 = [.dit, .dah, .dit, .lgap] ∧
    expandWord 0x02 = [.dit, .dit, .lgap] ∧
    expandWord 0x18 = [.dah, .dit, .dit, .dit, .lgap] ∧
    expandWord 0xFA = [.dah, .dah, .dah, .dah, .lgap] := by decide

/-! ### instructions: the boundary tick each stands for, on the row before it -/

/-- The place of a boundary tick after a DIT, in the vector configuration (V30 f to j). -/
def due (dec : DecState) (len code : Mask) (q : List Word) : State := at8 100 50 false 100 dec len code q

/-- What an instruction leaves: `t`, `next_t`, `emit`, `wave_idx`, the decoder, the queue; then the outputs. -/
def leaves (i : Instr) (s : State) : Option (Row × Out) := (after (exec i s)).map (fun s' => (row s', out s'))

/-- A tone that starts: sample `ROM[0]` = 0, `emit_o` = 1. -/
def toneOut : Out := ⟨0, 0, true, true⟩

/-- A gap that starts, or an idle tick: silence. -/
def muteOut : Out := ⟨0, 0, true, false⟩

/-- V1 b, c, d, g and V7: LETTER1 to LETTER4, popped already. -/
theorem test_exec_letters :
    leaves (.letter1 0b0000) (due .empty 0 0 []) =
      some (⟨1, 50, true, 1, .trail, 0, 0, []⟩, toneOut) ∧
    leaves (.letter1 0b1111) (due .empty 0 0 []) =
      some (⟨1, 150, true, 1, .trail, 0, 0b0111, []⟩, toneOut) ∧
    leaves (.letter2 0b0010) (due .empty 0 0 [0x1F]) =
      some (⟨1, 50, true, 1, .tones, 0b0001, 0b0001, [0x1F]⟩, toneOut) ∧
    leaves (.letter3 0b0111) (due .empty 0 0 []) =
      some (⟨1, 150, true, 1, .tones, 0b0011, 0b0011, []⟩, toneOut) ∧
    leaves (.letter4 0b0001) (due .empty 0 0 []) =
      some (⟨1, 150, true, 1, .tones, 0b0111, 0b0000, []⟩, toneOut) := by decide

/-- V1 l, m and V3: the rest rows leave the decoder as it was. -/
theorem test_exec_rests :
    leaves (.restL 0b1110) (due .empty 0 0b0111 []) =
      some (⟨1, 150, false, 1, .empty, 0, 0b0111, []⟩, muteOut) ∧
    leaves (.restW 0b0001) (due .empty 0 0 []) =
      some (⟨1, 350, false, 1, .empty, 0, 0, []⟩, muteOut) := by decide

/-- V6 and R150: the RESERVED rows shift their masks like letters. -/
theorem test_exec_reserved :
    leaves (.reserved2 0b0000) (due .empty 0 0 []) =
      some (⟨1, 50, true, 1, .tones, 0b0001, 0b0000, []⟩, toneOut) ∧
    leaves (.reserved4 0b0111) (due .empty 0 0 []) =
      some (⟨1, 150, true, 1, .tones, 0b0010, 0b0011, []⟩, toneOut) ∧
    leaves (.reserved5 0b0010) (due .empty 0 0 []) =
      some (⟨1, 50, true, 1, .tones, 0b0010, 0b0001, []⟩, toneOut) ∧
    leaves (.reserved6 0b0101) (due .empty 0 0 []) =
      some (⟨1, 150, true, 1, .tones, 0b0011, 0b0010, []⟩, toneOut) ∧
    leaves (.reserved8 0b0001) (due .empty 0 0 []) =
      some (⟨1, 150, true, 1, .tones, 0b0100, 0b0000, []⟩, toneOut) ∧
    leaves (.reserved9 0b1010) (due .empty 0 0 []) =
      some (⟨1, 50, true, 1, .tones, 0b0100, 0b0101, []⟩, toneOut) ∧
    leaves (.reservedA 0b1111) (due .empty 0 0 []) =
      some (⟨1, 150, true, 1, .tones, 0b0101, 0b0111, []⟩, toneOut) ∧
    leaves (.reservedB 0b1000) (due .empty 0 0 []) =
      some (⟨1, 50, true, 1, .tones, 0b0101, 0b0100, []⟩, toneOut) ∧
    leaves (.reservedC 0b1111) (due .empty 0 0 []) =
      some (⟨1, 150, true, 1, .tones, 0b0110, 0b0111, []⟩, toneOut) ∧
    leaves (.reservedD 0b1110) (due .empty 0 0 []) =
      some (⟨1, 50, true, 1, .tones, 0b0110, 0b0111, []⟩, toneOut) ∧
    leaves (.reservedE 0b1101) (due .empty 0 0 []) =
      some (⟨1, 150, true, 1, .tones, 0b0111, 0b0110, []⟩, toneOut) := by decide

/-- V30 f to i: the four element kinds. -/
theorem test_exec_kinds :
    leaves .dit (due .empty 0 0 []) =
      some (⟨1, 50, true, 1, .empty, 0, 0, []⟩, toneOut) ∧
    leaves .dah (due .empty 0 0 []) =
      some (⟨1, 150, true, 1, .empty, 0, 0, []⟩, toneOut) ∧
    leaves .lgap (due .empty 0 0 []) =
      some (⟨1, 150, false, 1, .empty, 0, 0, []⟩, muteOut) ∧
    leaves .wgap (due .empty 0 0 []) =
      some (⟨1, 350, false, 1, .empty, 0, 0, []⟩, muteOut) := by decide

/-- V1 a, d, e, f, h, j: the rows of `dec_state`. -/
theorem test_exec_decoder_states :
    leaves .decEmpty (due .empty 0 0 []) =
      some (⟨1, 65, false, 101, .empty, 0, 0, []⟩, muteOut) ∧
    leaves .decEmpty (due .empty 0 0 [0x23, 0x1F]) =
      some (⟨1, 50, true, 1, .tones, 0b0001, 0b0001, [0x1F]⟩, toneOut) ∧
    leaves .decTones (due .tones 0b0001 0b0001 [0x1F]) =
      some (⟨1, 150, true, 1, .trail, 0, 0, [0x1F]⟩, toneOut) ∧
    leaves .decTones (due .tones 0b0111 0 []) =
      some (⟨1, 50, true, 1, .tones, 0b0011, 0, []⟩, toneOut) ∧
    leaves .decTrail (due .trail 0 0b0111 [0x1F]) =
      some (⟨1, 150, false, 1, .empty, 0, 0b0111, [0x1F]⟩, muteOut) := by decide

/-- V7: each letter starts its first tone and holds the rest. -/
theorem test_exec_letters_A_to_I :
    leaves .letterA (due .empty 0 0 []) =
      some (⟨1, 50, true, 1, .tones, 0b0001, 0b0001, []⟩, toneOut) ∧
    leaves .letterB (due .empty 0 0 []) =
      some (⟨1, 150, true, 1, .tones, 0b0111, 0b0000, []⟩, toneOut) ∧
    leaves .letterC (due .empty 0 0 []) =
      some (⟨1, 150, true, 1, .tones, 0b0111, 0b0010, []⟩, toneOut) ∧
    leaves .letterD (due .empty 0 0 []) =
      some (⟨1, 150, true, 1, .tones, 0b0011, 0b0000, []⟩, toneOut) ∧
    leaves .letterE (due .empty 0 0 []) =
      some (⟨1, 50, true, 1, .trail, 0b0000, 0b0000, []⟩, toneOut) ∧
    leaves .letterF (due .empty 0 0 []) =
      some (⟨1, 50, true, 1, .tones, 0b0111, 0b0010, []⟩, toneOut) ∧
    leaves .letterG (due .empty 0 0 []) =
      some (⟨1, 150, true, 1, .tones, 0b0011, 0b0001, []⟩, toneOut) ∧
    leaves .letterH (due .empty 0 0 []) =
      some (⟨1, 50, true, 1, .tones, 0b0111, 0b0000, []⟩, toneOut) ∧
    leaves .letterI (due .empty 0 0 []) =
      some (⟨1, 50, true, 1, .tones, 0b0001, 0b0000, []⟩, toneOut) := by decide

/-- V7: each letter starts its first tone and holds the rest. -/
theorem test_exec_letters_J_to_R :
    leaves .letterJ (due .empty 0 0 []) =
      some (⟨1, 50, true, 1, .tones, 0b0111, 0b0111, []⟩, toneOut) ∧
    leaves .letterK (due .empty 0 0 []) =
      some (⟨1, 150, true, 1, .tones, 0b0011, 0b0010, []⟩, toneOut) ∧
    leaves .letterL (due .empty 0 0 []) =
      some (⟨1, 50, true, 1, .tones, 0b0111, 0b0001, []⟩, toneOut) ∧
    leaves .letterM (due .empty 0 0 []) =
      some (⟨1, 150, true, 1, .tones, 0b0001, 0b0001, []⟩, toneOut) ∧
    leaves .letterN (due .empty 0 0 []) =
      some (⟨1, 150, true, 1, .tones, 0b0001, 0b0000, []⟩, toneOut) ∧
    leaves .letterO (due .empty 0 0 []) =
      some (⟨1, 150, true, 1, .tones, 0b0011, 0b0011, []⟩, toneOut) ∧
    leaves .letterP (due .empty 0 0 []) =
      some (⟨1, 50, true, 1, .tones, 0b0111, 0b0011, []⟩, toneOut) ∧
    leaves .letterQ (due .empty 0 0 []) =
      some (⟨1, 150, true, 1, .tones, 0b0111, 0b0101, []⟩, toneOut) ∧
    leaves .letterR (due .empty 0 0 []) =
      some (⟨1, 50, true, 1, .tones, 0b0011, 0b0001, []⟩, toneOut) := by decide

/-- V7: each letter starts its first tone and holds the rest. -/
theorem test_exec_letters_S_to_Z :
    leaves .letterS (due .empty 0 0 []) =
      some (⟨1, 50, true, 1, .tones, 0b0011, 0b0000, []⟩, toneOut) ∧
    leaves .letterT (due .empty 0 0 []) =
      some (⟨1, 150, true, 1, .trail, 0b0000, 0b0000, []⟩, toneOut) ∧
    leaves .letterU (due .empty 0 0 []) =
      some (⟨1, 50, true, 1, .tones, 0b0011, 0b0010, []⟩, toneOut) ∧
    leaves .letterV (due .empty 0 0 []) =
      some (⟨1, 50, true, 1, .tones, 0b0111, 0b0100, []⟩, toneOut) ∧
    leaves .letterW (due .empty 0 0 []) =
      some (⟨1, 50, true, 1, .tones, 0b0011, 0b0011, []⟩, toneOut) ∧
    leaves .letterX (due .empty 0 0 []) =
      some (⟨1, 150, true, 1, .tones, 0b0111, 0b0100, []⟩, toneOut) ∧
    leaves .letterY (due .empty 0 0 []) =
      some (⟨1, 150, true, 1, .tones, 0b0111, 0b0110, []⟩, toneOut) ∧
    leaves .letterZ (due .empty 0 0 []) =
      some (⟨1, 150, true, 1, .tones, 0b0111, 0b0001, []⟩, toneOut) := by decide

/-- V34: the rest marks. -/
theorem test_exec_marks :
    leaves .markWord (due .empty 0 0 []) =
      some (⟨1, 350, false, 1, .empty, 0, 0, []⟩, muteOut) ∧
    leaves .markLetter (due .empty 0 0 []) =
      some (⟨1, 150, false, 1, .empty, 0, 0, []⟩, muteOut) := by decide

/-! ### the tick, the queue, the reset -/

/-- V30 a, b, d, e, k, n and V40: END_TONE and HOLD. -/
theorem test_tick_between_boundaries :
    (after (step (at8 0 0 false 0 .empty 0 0 [0x01]))).map row = some ⟨1, 0, false, 1, .empty, 0, 0, [0x01]⟩ ∧
    (after (step (at8 49 50 true 49 .trail 0 0 []))).map row = some ⟨50, 50, true, 50, .trail, 0, 0, []⟩ ∧
    (after (step (at8 50 50 true 50 .trail 0 0 []))).map row = some ⟨51, 50, false, 51, .trail, 0, 0, []⟩ ∧
    (after (step (at8 65 65 false 115 .empty 0 0 []))).map row = some ⟨66, 65, false, 116, .empty, 0, 0, []⟩ := by
  decide

/-- V40 d, e, f, g: the sample of one tick and the wrap of the index. -/
theorem test_tick_samples :
    (after (step (at8 25 50 true 25 .trail 0 0 []))).map out = some ⟨16384, 16384, true, true⟩ ∧
    (after (step (at8 75 150 true 75 .trail 0 0 []))).map out = some ⟨-16384, -16384, true, true⟩ ∧
    (after (step (at8 75 150 false 75 .empty 0 0 []))).map out = some ⟨0, 0, true, false⟩ ∧
    (after (step (at8 149 150 true 149 .trail 0 0 []))).map (fun s => (out s, s.waveIdx.val)) =
      some (⟨1029, 1029, true, true⟩, 0) := by
  decide

/-- R266's example; V30 l, p, q; V5's pop of 0xF1: boundary ticks through the decoder and the queue. -/
theorem test_tick_boundaries :
    (after (step (at8 100 50 false 100 .tones 0b0001 0b0001 []))).map row =
      some ⟨1, 150, true, 1, .trail, 0, 0, []⟩ ∧
    (after (step (at8 115 65 false 15 .empty 0 0 []))).map row = some ⟨1, 65, false, 16, .empty, 0, 0, []⟩ ∧
    (after (step (at8 400 350 false 100 .empty 0 0 [0x11]))).map row = some ⟨1, 150, true, 1, .trail, 0, 0, []⟩ ∧
    (after (step (at8 50 0 false 50 .empty 0 0 [0xF1]))).map row = some ⟨1, 150, true, 1, .trail, 0, 0b0111, []⟩ := by
  decide

/-- V10, V12: a push appends; a push at a full queue transfers nothing and the producer keeps its word. -/
theorem test_push :
    (after (step { small 0 0 false 0 .empty 0 0 [0x23] with toPush := [0x1F], turns := [.push] })).map
      (fun s => (s.q, s.toPush)) = some ([0x23, 0x1F], []) ∧
    (after (step { small 0 0 false 0 .empty 0 0 [0x01, 0x01] with toPush := [0x11], turns := [.push] })).map
      (fun s => (s.q, s.toPush)) = some ([0x01, 0x01], [0x11]) := by
  decide

/-- V50, V51, V52: reset in the middle of a letter, with a tick in the same cycle. -/
theorem test_reset :
    (after (step { at8 1 150 true 1 .trail 0 0 [0x11] with emitO := true, dacValid := true,
                                                           turns := [.reset true true] })).map
      (fun s => (row s, out s)) =
      some (⟨0, 0, false, 0, .empty, 0, 0, []⟩, ⟨0, 0, false, false⟩) := by
  decide

/-- V44: a cycle without a tick holds the sample and ends the pulse. -/
theorem test_quiet :
    (after (step { at8 2 50 true 2 .trail 0 0 [] with dacLeft := 1029, dacRight := 1029, emitO := true,
                                                      dacValid := true, turns := [.quiet] })).map
      (fun s => (row s, out s)) =
      some (⟨2, 50, true, 2, .trail, 0, 0, []⟩, ⟨1029, 1029, false, true⟩) := by
  decide

/-- U2, U3, U4, U6: what is refused, by name. -/
theorem test_refused :
    step { State.resetOf tiny with turns := [.misuse .loneReset] } = .refused (.hostMisuse .loneReset) ∧
    step (State.resetOf { tiny with depth := 0 }) = .refused .misconfigured := by
  exact ⟨rfl, rfl⟩

/-- The host's placing: the next step from reset runs the word, or the element kind. -/
theorem test_withFetchWord :
    (after (step (State.reset.withFetchWord 8 0x23))).map row = some ⟨1, 50, true, 1, .tones, 0b0001, 0b0001, []⟩ ∧
    (after (step (State.reset.withFetchWord 2 0b11))).map row = some ⟨1, 350, false, 1, .empty, 0, 0, []⟩ ∧
    (after (step (State.reset.withFetchWord 2 0b01))).map row = some ⟨1, 150, true, 1, .trail, 0, 0, []⟩ := by
  decide
/-! ### witnesses: for every obligation with hypotheses, a state and operands that meet them

The base is the small build after its first tick (a boundary tick is due: `t` = `next_t` + G) or the reset state of a
build, changed where a hypothesis asks for it. -/

/-- A boundary tick is due on the small build, for the given decoder and queue (reached from reset in one tick). -/
def dueSmall (dec : DecState) (len code : Mask) (q : List Word) : State := small 1 0 false 1 dec len code q

/-- The same, with the given turns still to come. -/
def withTurns (turns : List Turn) (s : State) : State := { s with turns := turns }

/-- A DAH that started on the last tick of the small build: inside the emit window. -/
def inTone : State := { small 1 3 true 1 .trail 0 0 [] with dacValid := true, emitO := true }

/-- The small build with a word in its queue and in its queue memory. -/
def queued : State :=
  { dueSmall .empty 0 0 [0x23] with
    ring := { mem := [(0, 0x23)], wrPtr := 1, rdPtr := 0, wrPtrSeen := 1, rdPtrSeen := 0 } }

theorem inv_due : Inv (dueSmall .empty 0 0 []) :=
  ⟨by decide, by decide, by decide, by decide, by decide, by decide, by decide, by decide, by decide⟩

theorem inv_queued : Inv queued :=
  ⟨by decide, by decide, by decide, by decide, by decide, by decide, by decide, by decide, by decide⟩

theorem inv_inTone : Inv inTone :=
  ⟨by decide, by decide, by decide, by decide, by decide, by decide, by decide, by decide, by decide⟩

theorem witness_ResetPutsEveryRegisterAtItsResetValue :
    (withTurns [.reset true true, .tick] inTone).cfg.WellFormed ∧
    (withTurns [.reset true true, .tick] inTone).turns = .reset true true :: [.tick] := by decide

theorem witness_ResetBeatsTickAndPush :
    (withTurns [.reset true false] queued).cfg.WellFormed ∧
    (withTurns [.reset true false] queued).turns = .reset true false :: [] := by decide

theorem witness_EndToneMutesAndCountsOn :
    (small 3 3 true 0 .trail 0 0 []).cfg.WellFormed ∧
    nextTurn (small 3 3 true 0 .trail 0 0 []) = .tick ∧
    (small 3 3 true 0 .trail 0 0 []).t = (small 3 3 true 0 .trail 0 0 []).nextT := by decide

theorem witness_HoldOnlyCountsAndPlays :
    inTone.cfg.WellFormed ∧ inTone.cfg.rom[inTone.waveIdx.val]? = some 5 ∧ nextTurn inTone = .tick ∧
    inTone.t ≠ inTone.nextT ∧ inTone.t ≠ inTone.nextT + BitVec.ofNat 32 inTone.cfg.u := by decide

theorem witness_BoundaryPlaysTheDecodersAnswer :
    queued.cfg.WellFormed ∧ nextTurn queued = .tick ∧
    queued.t = queued.nextT + BitVec.ofNat 32 queued.cfg.u := by decide

/-- One state for each of the five clauses. -/
theorem witness_NextElementHandsOutWhatTheDecoderHolds :
    (dueSmall .tones 1 1 []).decState = .tones ∧ (dueSmall .trail 0 0 []).decState = .trail ∧
    ((dueSmall .empty 0 0 []).decState = .empty ∧ (dueSmall .empty 0 0 []).q = []) ∧
    ((dueSmall .empty 0 0 [0xF0]).decState = .empty ∧ (dueSmall .empty 0 0 [0xF0]).q = 0xF0 :: [] ∧
      (0xF0 : Word).extractLsb' 0 4 = 0) ∧
    ((dueSmall .empty 0 0 [0x02]).decState = .empty ∧ (dueSmall .empty 0 0 [0x02]).q = 0x02 :: [] ∧
      (0x02 : Word).extractLsb' 0 4 ≠ 0) := by decide

/-- The statements about instructions whose one hypothesis on the state is a well-formed build: LetterWords, RestWords,
ReservedWords, ElementKinds, HeldLetter, LettersStartTheirPattern, RestMarks. -/
theorem witness_wellFormedBuild : (dueSmall .empty 0 0 []).cfg.WellFormed := by decide

theorem witness_RestWordsStartOneGap :
    (dueSmall .empty 0 0 []).cfg.WellFormed ∧ (Instr.restL 0b1110).WellFormed ∧ (Instr.restW 0b0001).WellFormed := by
  decide

theorem witness_ReservedWordsPlayLikeLetters :
    (Instr.reserved2, (0b0010 : Mask)) ∈ reservedRows ∧ (Instr.reservedE, (0b1110 : Mask)) ∈ reservedRows ∧
    (dueSmall .empty 0 0 []).cfg.WellFormed :=
  ⟨List.mem_cons_self, by simp [reservedRows], by decide⟩

theorem witness_EmptyDecoderIdlesOrOpensAWord :
    ((dueSmall .empty 0 0 []).cfg.WellFormed ∧ (dueSmall .empty 0 0 []).q = []) ∧
    (queued.cfg.WellFormed ∧ queued.q = 0x23 :: []) := by decide

theorem witness_LettersStartTheirPattern :
    (Instr.letterE, [Kind.dit]) ∈ letters ∧ (Instr.letterQ, [Kind.dah, .dah, .dit, .dah]) ∈ letters ∧
    (dueSmall .empty 0 0 []).cfg.WellFormed := by decide

theorem witness_EveryInstructionCompletes :
    (dueSmall .tones 1 0 []).cfg.WellFormed := by decide

/-- A frame for a row that does not pop, and one for the row that does. -/
theorem witness_InstructionFrame :
    (∃ s', exec .dah queued = .next s' ∧ Instr.dah ≠ .decEmpty) ∧ ∃ s', exec .decEmpty queued = .next s' :=
  ⟨⟨_, rfl, by decide⟩, _, rfl⟩

theorem witness_StepRunsTheWordAtTheHead :
    queued.cfg.WellFormed ∧ nextTurn queued = .tick ∧ queued.t = queued.nextT + BitVec.ofNat 32 queued.cfg.u ∧
    queued.decState = .empty ∧ queued.q = 0x23 :: [] ∧ decode (.word 0x23) = .ok (.letter2 0b0010) := by decide

/-- One state for each of the three clauses. -/
theorem witness_StepRunsTheHeldLetter :
    ((dueSmall .tones 1 1 []).cfg.WellFormed ∧ nextTurn (dueSmall .tones 1 1 []) = .tick ∧
      (dueSmall .tones 1 1 []).t = (dueSmall .tones 1 1 []).nextT + BitVec.ofNat 32 tiny.u ∧
      (dueSmall .tones 1 1 []).decState = .tones) ∧
    ((dueSmall .trail 0 0 []).t = (dueSmall .trail 0 0 []).nextT + BitVec.ofNat 32 tiny.u ∧
      (dueSmall .trail 0 0 []).decState = .trail) ∧
    ((dueSmall .empty 0 0 []).t = (dueSmall .empty 0 0 []).nextT + BitVec.ofNat 32 tiny.u ∧
      (dueSmall .empty 0 0 []).decState = .empty ∧ (dueSmall .empty 0 0 []).q = []) := by decide

theorem witness_DecodeOfEncodeIsTheInstruction :
    (Instr.restW 0b1111).WellFormed ∧ (Instr.letter4 0b1011).WellFormed ∧ Instr.decTrail.WellFormed := by decide

theorem witness_EncodeOfDecodeIsTheCode :
    decode (.word 0xE0) = .ok (.restL 0b1110) ∧ decode (.kind 0b11) = .ok .wgap ∧
    decode (.dec 0b10) = .ok .decTrail := by decide

theorem witness_ReservedWordsExpandToTheHighestSetBit :
    isReserved 0x02 = true ∧ isReserved 0xFE = true := by decide

theorem witness_PushAppendsAtTheTail :
    { queued with toPush := [0x1F], turns := [.push] }.cfg.WellFormed ∧
    nextTurn { queued with toPush := [0x1F], turns := [.push] } = .push ∧
    { queued with toPush := [0x1F], turns := [.push] }.toPush = 0x1F :: [] ∧
    { queued with toPush := [0x1F], turns := [.push] }.q.length <
      { queued with toPush := [0x1F], turns := [.push] }.cfg.depth := by decide

/-- Both ways of the disjunction: no word, and a full queue. -/
theorem witness_PushIntoAFullQueueTransfersNothing :
    ((withTurns [.push] queued).cfg.WellFormed ∧ nextTurn (withTurns [.push] queued) = .push ∧
      (withTurns [.push] queued).toPush = []) ∧
    (nextTurn { withTurns [.push] (dueSmall .empty 0 0 [1, 1]) with toPush := [0x11] } = .push ∧
      { withTurns [.push] (dueSmall .empty 0 0 [1, 1]) with toPush := [0x11] }.cfg.depth ≤
        { withTurns [.push] (dueSmall .empty 0 0 [1, 1]) with toPush := [0x11] }.q.length) := by decide

/-- The third clause, V12: a full queue, and the tick that pops. -/
theorem witness_PushIntoAFullQueueTransfersNothing_pop :
    (dueSmall .empty 0 0 [1, 1]).q.length ≤ (dueSmall .empty 0 0 [1, 1]).cfg.depth ∧
    (poppedNow (dueSmall .empty 0 0 [1, 1])).isSome = true ∧
    ∃ s', step (dueSmall .empty 0 0 [1, 1]) = .next s' ∧ wrReady false s' = true :=
  ⟨by decide, by decide, _, rfl, by decide⟩

theorem witness_TryPopTakesTheHeadOrNothing :
    (dueSmall .empty 0 0 []).q = [] ∧ queued.q = 0x23 :: [] := by decide

/-- A tick that pops (the queue gets shorter), and a push. -/
theorem witness_QueueChangesOnlyByPushAndPop :
    (∃ s', step queued = .next s' ∧ (nextTurn queued).keepsRunning = true ∧ s'.q.length < queued.q.length) ∧
    ∃ s', step { withTurns [.push] queued with toPush := [0x1F] } = .next s' ∧
      (nextTurn { withTurns [.push] queued with toPush := [0x1F] }).keepsRunning = true :=
  ⟨⟨_, rfl, by decide, by decide⟩, _, rfl, by decide⟩

/-- Two pushes and a popping tick. -/
theorem witness_WordsArePoppedInTheOrderPushed :
    (∀ turn ∈ [Turn.push, .push, .tick], turn.keepsRunning = true) ∧
    ∃ s', runFor 3 { withTurns [.push, .push, .tick] (dueSmall .empty 0 0 []) with toPush := [0x23, 0x1F] } = .next s' ∧
      s'.q = [0x1F] :=
  ⟨by decide, _, rfl, by decide⟩

theorem witness_ResetMeetsTheInvariant : Config.vector.WellFormed ∧ tiny.WellFormed := by decide

/-- A step inside a tone, and one that leaves `next_t` at 0 (its second clause). -/
theorem witness_EveryStepKeepsTheInvariant :
    (Inv inTone ∧ ∃ s', step inTone = .next s') ∧
    (Inv (State.resetOf tiny) ∧ ∃ s', step (State.resetOf tiny) = .next s' ∧ s'.nextT = 0) :=
  ⟨⟨inv_inTone, _, rfl⟩,
    ⟨by decide, by decide, by decide, by decide, by decide, by decide, by decide, by decide, by decide⟩, _, rfl, by decide⟩

/-- A run that pushes, pops and is inside a tone. -/
theorem witness_ReachableStatesMeetTheInvariant :
    tiny.WellFormed ∧
    ∃ s, runFor 3 { State.resetOf tiny with toPush := [0x11], turns := [.push] } = .next s ∧ s.emit = true :=
  ⟨by decide, _, rfl, by decide⟩

theorem witness_OutputIsTheTableAtTheToneOffset :
    Inv inTone ∧ OutputFollowsTable inTone ∧ ∃ s', step inTone = .next s' ∧ s'.dacLeft = 5 :=
  ⟨inv_inTone, ⟨by decide, by decide, by decide, by decide, by decide⟩, _, rfl, by decide⟩

/-- A pop, and a push that wraps no pointer. -/
theorem witness_RingRealisesTheQueue :
    queued.q.length ≤ queued.cfg.depth ∧ RingHoldsQueue queued ∧ ∃ s', step queued = .next s' ∧ s'.q = [] :=
  ⟨by decide, ⟨by decide, by decide, by decide, by decide, by decide, by decide, by decide⟩, _, rfl, by decide⟩

theorem witness_NoStepTouchesTheBuild : ∃ s', step queued = .next s' := ⟨_, rfl⟩

theorem witness_BetweenTicksEverythingHolds :
    (withTurns [.quiet] inTone).cfg.WellFormed ∧ nextTurn (withTurns [.quiet] inTone) = .quiet := by decide

theorem witness_BrokenBuildsAndDutiesAreRefused :
    ¬ (State.resetOf { tiny with u := 0 }).cfg.WellFormed ∧
    ((withTurns [.misuse .crowdedTick] queued).cfg.WellFormed ∧
      nextTurn (withTurns [.misuse .crowdedTick] queued) = .misuse .crowdedTick) := by decide

theorem witness_DutifulRunsNeverStop :
    Inv queued ∧ (∀ turn ∈ [Turn.push, .quiet, .reset true true], turn.dutiful = true) := ⟨inv_queued, by decide⟩

/-- The small build after its first boundary found nothing: drained. -/
theorem witness_DrainedStaysDrainedAndSilent :
    (small 1 3 false 2 .empty 0 0 []).cfg.WellFormed ∧
    Drained (small 1 3 false 2 .empty 0 0 []) ∧ (small 1 3 false 2 .empty 0 0 []).toPush = [] ∧
    (∀ turn ∈ (small 1 3 false 2 .empty 0 0 []).turns, turn.keepsRunning = true) ∧
    (small 1 3 false 2 .empty 0 0 []).dacLeft = 0 ∧ (small 1 3 false 2 .empty 0 0 []).dacRight = 0 ∧
    (small 1 3 false 2 .empty 0 0 []).emitO = false :=
  ⟨by decide, ⟨by decide, by decide, by decide, by decide⟩, by decide, by decide, by decide, by decide, by decide⟩

/-- Also the witness of BlockDrainsWhenPushesStop. -/
theorem witness_NextBoundaryComesOnTime : Inv inTone ∧ inTone.turns = [] := ⟨inv_inTone, rfl⟩

theorem witness_ElementTimeline :
    (queued.cfg.WellFormed ∧ queued.turns = [] ∧ atBoundary queued = true ∧ startedNow queued = some .dit) ∧
    (tiny.WellFormed ∧ (∀ turn ∈ [Turn.push, .quiet, .tick], turn.keepsRunning = true) ∧
      ticksWithin 3 [.push, .quiet, .tick] ≤ tiny.u) := by decide

/-- The second clause's run: a word pushed before tick G, after which a boundary tick is due. -/
theorem witness_ElementTimeline_reset :
    ∃ s', runFor 3 { State.resetOf tiny with toPush := [0x11], turns := [.push, .quiet, .tick] } = .next s' ∧
      s'.q = [0x11] ∧ atBoundary s' = true :=
  ⟨_, rfl, by decide, by decide⟩

theorem witness_IdleInterval :
    (dueSmall .empty 0 0 []).cfg.WellFormed ∧ (dueSmall .empty 0 0 []).turns = [] ∧ atBoundary (dueSmall .empty 0 0 []) = true ∧
    startedNow (dueSmall .empty 0 0 []) = none := by decide

theorem witness_TonePlaysTheTableOnce :
    (dueSmall .tones 1 1 []).cfg.WellFormed ∧ (dueSmall .tones 1 1 []).turns = [] ∧
    atBoundary (dueSmall .tones 1 1 []) = true ∧ startedNow (dueSmall .tones 1 1 []) = some .dah ∧
    isTone .dah = true := by decide

theorem witness_LetterStartToLetterStart :
    (queued.cfg.WellFormed ∧ queued.turns = [] ∧ atBoundary queued = true ∧ queued.decState = .empty ∧
      queued.q = 0x23 :: []) ∧
    lengthMask 0x23 ≠ 0 := by decide

/-- An idle block of the small build with a word just pushed. -/
theorem witness_PushedWordStartsWithinTheIdleInterval :
    Inv (small 1 3 false 2 .empty 0 0 [0x11]) ∧ (small 1 3 false 2 .empty 0 0 [0x11]).turns = [] ∧
    (small 1 3 false 2 .empty 0 0 [0x11]).decState = .empty ∧
    (small 1 3 false 2 .empty 0 0 [0x11]).nextT = idleSpan (small 1 3 false 2 .empty 0 0 [0x11]).cfg ∧
    (small 1 3 false 2 .empty 0 0 [0x11]).q = 0x11 :: [] :=
  ⟨⟨by decide, by decide, by decide, by decide, by decide, by decide, by decide, by decide, by decide⟩, by decide, by decide,
    by decide, by decide⟩

/-- Also the witness of PendingElementsAreConserved. -/
theorem witness_ElementStreamIsTheEagerExpansion :
    Inv queued ∧ queued.decState = .empty ∧ (∀ turn ∈ queued.turns, turn.keepsRunning = true) ∧
    ∃ s', runFor 3 queued = .next s' ∧ s'.decState = .trail :=
  ⟨inv_queued, by decide, by decide, _, rfl, by decide⟩

/-- A tick off the boundary, and a boundary tick of a decoder that holds a letter. -/
theorem witness_OnlyAnEmptyDecodersBoundarySeesTheQueue :
    (nextTurn inTone = .tick ∧ atBoundary inTone = false ∧ ∃ s', step inTone = .next s') ∧
    (nextTurn (dueSmall .tones 1 1 [0x07]) = .tick ∧ (dueSmall .tones 1 1 [0x07]).decState ≠ .empty ∧
      ∃ s', step (dueSmall .tones 1 1 [0x07]) = .next s') :=
  ⟨⟨by decide, by decide, _, rfl⟩, by decide, by decide, _, rfl⟩

/-- V4: 0x23 and 0xA3 play alike. -/
theorem witness_OutputDependsOnWordsOnlyThroughExpansion :
    Inv queued ∧ Inv { queued with q := [0xA3] } ∧ looksAlike queued { queued with q := [0xA3] } ∧
    ∃ s', runFor 2 queued = .next s' :=
  ⟨inv_queued, ⟨by decide, by decide, by decide, by decide, by decide, by decide, by decide, by decide, by decide⟩,
    ⟨rfl, List.Forall₂.cons (show expandWord 0x23 = expandWord 0xA3 by decide) List.Forall₂.nil, List.Forall₂.nil,
      by decide⟩, _, rfl⟩

/-- A character outside the table, one that is no pattern character, and both ways of the seam condition. -/
theorem witness_LetterTableMatchesThePatterns :
    '1' ∉ markedChars ∧ ('A' ≠ '.' ∧ 'A' ≠ '-') ∧
    ((∀ ch ∈ ['-', 'E'].getLast?, ch ≠ '.' ∧ ch ≠ '-') ∧ ∀ ch ∈ ['_', '.'].head?, ch ≠ '.' ∧ ch ≠ '-') :=
  ⟨by decide, by decide, by simp, by simp⟩

theorem witness_WaveIndexFitsItsWidth : tiny.WellFormed ∧ (2 : Nat) < tiny.entries := by decide

/-- A tick that starts an element, and one that does not. -/
theorem witness_IndexRunsOnEveryTick :
    (nextTurn queued = .tick ∧ startedNow queued = some .dit ∧ ∃ s', step queued = .next s') ∧
    (nextTurn inTone = .tick ∧ startedNow inTone = none ∧ ∃ s', step inTone = .next s') :=
  ⟨⟨by decide, by decide, _, rfl⟩, by decide, by decide, _, rfl⟩

/-- A reserved length mask and a legal one. -/
theorem witness_LegalWordsExpandByTheirClass :
    (0x25 : Word).extractLsb' 0 4 ∈ reservedRows.map Prod.snd ∧
    (0x27 : Word).extractLsb' 0 4 ∉ reservedRows.map Prod.snd := by decide

/-- A due END_TONE; a build with G = 0, where both conditions hold; a well-formed build. -/
theorem witness_EndToneIsTestedBeforeBoundary :
    (small 3 3 true 0 .trail 0 0 []).t = (small 3 3 true 0 .trail 0 0 []).nextT ∧
    ((State.resetOf { tiny with u := 0 }).cfg.u < 2 ^ 32 ∧
      (State.resetOf { tiny with u := 0 }).t = (State.resetOf { tiny with u := 0 }).nextT ∧
      (State.resetOf { tiny with u := 0 }).t =
        (State.resetOf { tiny with u := 0 }).nextT + BitVec.ofNat 32 (State.resetOf { tiny with u := 0 }).cfg.u ∧
      (State.resetOf { tiny with u := 0 }).cfg.u = 0) ∧
    inTone.cfg.WellFormed := by decide

theorem witness_TonesHandsOutTheNextTone : (dueSmall .tones 0b0101 0b0010 []).decState = .tones := by decide

theorem witness_DurationsAreTheFixedRatios :
    tiny.WellFormed ∧ startedNow queued = some .dit ∧ ∃ s', step queued = .next s' := ⟨by decide, by decide, _, rfl⟩

/-- A pattern of one element, one of W, and one that is too long. -/
theorem witness_WrittenPatternsStandForTheirWord :
    ((∀ k ∈ [Kind.dah], isTone k = true) ∧ 1 ≤ [Kind.dah].length ∧ [Kind.dah].length ≤ 4) ∧
    ((∀ k ∈ [Kind.dah, .dah, .dit, .dah], isTone k = true) ∧ [Kind.dah, .dah, .dit, .dah].length = 4) ∧
    ((∀ k ∈ [Kind.dit, .dit, .dit, .dit, .dit], isTone k = true) ∧
      4 < [Kind.dit, .dit, .dit, .dit, .dit].length) := by decide

end Sys2Proof.Tests
end

section
/-! The wave index and its width (R10, R36, R76, R262): `IW` is the least width from 1 bit up that `N` fits, and
`rom_addr` carries the index whole. -/

namespace Sys2Proof

/-- `ceilLog2 n` is no larger than it must be (`le_two_pow_ceilLog2` says it is large enough). -/
theorem two_pow_pred_ceilLog2_lt {n : Nat} (h : 1 < n) : 2 ^ (ceilLog2 n - 1) < n := by
  have hself : 2 ^ (n - 1).log2 ≤ n - 1 := Nat.log2_self_le (by omega)
  rw [ceilLog2, if_neg (by omega), Nat.add_sub_cancel]
  omega

/-- A width of at most 1 bit comes of the floor in `max 1`; a wider one is `ceil(log2 N)` of an `N` above 1. -/
theorem Config.indexWidth_least (c : Config) : c.indexWidth = 1 ∨ 2 ^ (c.indexWidth - 1) < c.entries := by
  rcases le_or_gt (ceilLog2 c.entries) 1 with hle | hgt
  · exact .inl (max_eq_left hle)
  · right
    have hN : 1 < c.entries := by
      by_contra hsmall
      rw [ceilLog2, if_pos (by omega)] at hgt
      omega
    rw [Config.indexWidth, max_eq_right hgt.le]
    exact two_pow_pred_ceilLog2_lt hN

namespace Machine

/-- `rom_addr` spells the index: no bit of it is cut off, since the index is below `N` and `N` fits `IW` bits. -/
theorem romAddr_toNat {c : Config} (h : c.WellFormed) (idx : WaveIndex c) : (romAddr idx).toNat = idx.val := by
  have hidx : idx.val < c.entries := index_lt h idx
  rw [romAddr, BitVec.toNat_ofNat, Nat.mod_eq_of_lt (hidx.trans_le c.indexFits)]

/-- Every number below `N` is a wave index. -/
theorem exists_waveIndex {c : Config} (h : c.WellFormed) {i : Nat} (hi : i < c.entries) :
    ∃ idx : WaveIndex c, idx.val = i :=
  ⟨⟨i, (lastIndex_succ h).symm ▸ hi⟩, rfl⟩

end Machine
end Sys2Proof

open Sys2Proof Sys2Proof.Machine

/-- Settles O52: the width is `ceil(log2 N)` from 1 bit up, and the type of the index is exactly `0 .. N-1`. -/
theorem waveIndexFitsItsWidth : Obligations.WaveIndexFitsItsWidth := by
  intro c h
  exact ⟨rfl, le_max_left _ _, c.indexFits, c.indexWidth_least,
    fun idx => ⟨index_lt h idx, romAddr_toNat h idx⟩, fun _ hi => exists_waveIndex h hi⟩

end

section
/-! The counter's numbers (R10, R232, R240): in a well-formed build no duration, idle span or gap is cut off by the 32
bits of `t` and `next_t`, and the three branches of TSM_STEP (R222). -/

namespace Sys2Proof.Machine

theorem wellFormed_depth {c : Config} (h : c.WellFormed) : 1 ≤ c.depth := by
  obtain ⟨-, -, -, hdepth, -⟩ := (Config.wellFormed_iff c).1 h
  exact hdepth

theorem wellFormed_counters {c : Config} (h : c.WellFormed) : max (7 * c.u) (c.f + 1) + c.u < 2 ^ 32 := by
  obtain ⟨-, -, -, -, hfit, -⟩ := (Config.wellFormed_iff c).1 h
  exact hfit

theorem durTicks_bounds {c : Config} (h : c.WellFormed) (k : Kind) : 1 ≤ durTicks c k ∧ durTicks c k ≤ 7 * c.u := by
  have hunit := wellFormed_unit h
  cases k <;> dsimp only [durTicks] <;> omega

theorem dur_toNat {c : Config} (h : c.WellFormed) (k : Kind) : (dur c k).toNat = durTicks c k := by
  have hfit := wellFormed_counters h
  obtain ⟨-, hle⟩ := durTicks_bounds h k
  rw [dur, BitVec.toNat_ofNat, Nat.mod_eq_of_lt (by omega)]

theorem idleSpan_toNat {c : Config} (h : c.WellFormed) : (idleSpan c).toNat = c.f + 1 := by
  have hfit := wellFormed_counters h
  rw [idleSpan, BitVec.toNat_ofNat, Nat.mod_eq_of_lt (by omega)]

theorem gap_toNat {c : Config} (h : c.WellFormed) : (gap c).toNat = c.u := by
  have hfit := wellFormed_counters h
  rw [gap, BitVec.toNat_ofNat, Nat.mod_eq_of_lt (by omega)]

theorem dur_ne_zero {c : Config} (h : c.WellFormed) (k : Kind) : dur c k ≠ 0 := by
  intro hzero
  obtain ⟨hpos, -⟩ := durTicks_bounds h k
  have hval : durTicks c k = 0 := (dur_toNat h k).symm.trans (congrArg BitVec.toNat hzero)
  omega

theorem idleSpan_ne_zero {c : Config} (h : c.WellFormed) : idleSpan c ≠ 0 := by
  intro hzero
  have hval : c.f + 1 = 0 := (idleSpan_toNat h).symm.trans (congrArg BitVec.toNat hzero)
  omega

/-- Only the two tones are audible (R105, R225). -/
theorem tone_of_kindEmits {k : Kind} (h : kindEmits k = true) : k = .dit ∨ k = .dah := by
  cases k with
  | dit => exact .inl rfl
  | dah => exact .inr rfl
  | lgap => exact absurd h (by decide)
  | wgap => exact absurd h (by decide)

/-- TSM_STEP's dispatch on the counter's comparisons (R222). -/
theorem branch_eq (s : State) :
    branch s = if s.t = s.nextT then .endTone else if s.t = s.nextT + gap s.cfg then .boundary else .hold := by
  simp [branch, endToneDue, gapOver]

theorem branch_endTone_iff {s : State} : branch s = .endTone ↔ s.t = s.nextT := by
  rw [branch_eq]
  split_ifs with hnext <;> simp [hnext]

theorem branch_hold_iff {s : State} : branch s = .hold ↔ s.t ≠ s.nextT ∧ s.t ≠ s.nextT + gap s.cfg := by
  rw [branch_eq]
  split_ifs with hnext hgap
  · simp [hnext]
  · exact ⟨nofun, fun h => absurd hgap h.2⟩
  · exact ⟨fun _ => ⟨hnext, hgap⟩, fun _ => rfl⟩

@[simp] theorem branch_dropTurn (s : State) : branch (dropTurn s) = branch s := rfl

end Sys2Proof.Machine
end

section
/-! Frames: what the decoder's answer, an instruction, and a whole step leave unchanged (R48, R84, R46). -/

namespace Sys2Proof.Machine

/-- The decoder's answer writes the decoder's registers at most, and pops at most one word, the head, when it is EMPTY
(R142, R175). -/
theorem nextElement_frame {s e : State} {o : Option Kind} (h : nextElement s = (o, e)) :
    e = { s with decState := e.decState, symLen := e.symLen, symCode := e.symCode, q := e.q, ring := e.ring } ∧
    ((e.q = s.q ∧ e.ring = s.ring) ∨
      (s.decState = .empty ∧ ∃ w, s.q = w :: e.q ∧ e.ring = s.ring.pop s.cfg.depth)) := by
  rcases nextElement_cases s with ⟨-, he⟩ | ⟨-, he⟩ | ⟨-, -, he⟩ | ⟨w, ws, hd, hq, -, he⟩ | ⟨w, ws, hd, hq, -, he⟩ <;>
    cases he.symm.trans h
  · exact ⟨rfl, .inl ⟨rfl, rfl⟩⟩
  · exact ⟨rfl, .inl ⟨rfl, rfl⟩⟩
  · exact ⟨rfl, .inl ⟨rfl, rfl⟩⟩
  · exact ⟨rfl, .inr ⟨hd, w, by simp [hq], rfl⟩⟩
  · exact ⟨rfl, .inr ⟨hd, w, by simp [hq], rfl⟩⟩

theorem nextElement_queue {s e : State} {o : Option Kind} (h : nextElement s = (o, e)) :
    e.cfg = s.cfg ∧
    ((e.q = s.q ∧ e.ring = s.ring) ∨ ∃ w, s.q = w :: e.q ∧ e.ring = s.ring.pop s.cfg.depth) := by
  obtain ⟨he, hqueue⟩ := nextElement_frame h
  exact ⟨by rw [he], hqueue.imp_right And.right⟩

/-- What a boundary tick leaves of the state `s` beside a pop, and that it shows one value on both channels. -/
structure OnlyPlays (s s' : State) : Prop where
  /-- The build. -/
  cfg : s'.cfg = s.cfg
  /-- The producer's words. -/
  toPush : s'.toPush = s.toPush
  /-- The schedule. -/
  turns : s'.turns = s.turns
  /-- The queue. -/
  q : s'.q = s.q
  /-- Its ring. -/
  ring : s'.ring = s.ring
  /-- One value on both channels (R265). -/
  channels : s'.dacLeft = s'.dacRight

theorem StartsIn.onlyPlays {s s' : State} (h : StartsIn s (.next s')) : OnlyPlays s s' := by
  obtain ⟨k, e, hstart, he⟩ := h
  obtain ⟨v, -, rfl⟩ := generate_next hstart.symm
  rw [he]
  exact ⟨rfl, rfl, rfl, rfl, rfl, rfl⟩

theorem idleTick_onlyPlays {s s' : State} (h : idleTick s = .next s') : OnlyPlays s s' := by
  obtain ⟨v, -, rfl⟩ := generate_next h
  exact ⟨rfl, rfl, rfl, rfl, rfl, rfl⟩

/-- Every row but DEC_EMPTY only plays; DEC_EMPTY does so with the head popped, if there is one (R144, R175). -/
theorem exec_onlyPlays {i : Instr} {s s' : State} (h : exec i s = .next s') :
    (i ≠ .decEmpty ∧ OnlyPlays s s') ∨ (i = .decEmpty ∧ s.q = [] ∧ OnlyPlays s s') ∨
    (i = .decEmpty ∧ OnlyPlays (fifoDrop s) s') := by
  by_cases hi : i = .decEmpty
  · subst hi
    rcases exec_decEmpty s with ⟨hq, he⟩ | ⟨w, ws, -, he⟩
    · exact .inr (.inl ⟨rfl, hq, idleTick_onlyPlays (he.symm.trans h)⟩)
    · exact .inr (.inr ⟨rfl, (he.symm.trans h ▸ wordTick_starts w (fifoDrop s)).onlyPlays⟩)
  · exact .inl ⟨hi, (h ▸ exec_starts i hi s).onlyPlays⟩

/-- A tick leaves the build, and the queue with its ring unless it pops the head (R142, R175). -/
theorem tick_queue {s s' : State} (h : tick s = .next s') :
    s'.cfg = s.cfg ∧
    ((s'.q = s.q ∧ s'.ring = s.ring) ∨ ∃ w, s.q = w :: s'.q ∧ s'.ring = s.ring.pop s.cfg.depth) := by
  rcases tick_cases h with ⟨-, v, -, rfl⟩ | ⟨-, v, -, rfl⟩ | ⟨-, k, e, v, he, -, rfl⟩ | ⟨-, e, v, he, -, rfl⟩
  · exact ⟨rfl, .inl ⟨rfl, rfl⟩⟩
  · exact ⟨rfl, .inl ⟨rfl, rfl⟩⟩
  · simpa using nextElement_queue he
  · simpa using nextElement_queue he

/-- A step leaves the build, and moves the queue and its ring together: not at all, by a pop, by a push into a queue
with room, or by a reset (R80, R172, R175, R320). -/
theorem step_queue {s s' : State} (h : step s = .next s') :
    s'.cfg = s.cfg ∧
    ((s'.q = s.q ∧ s'.ring = s.ring) ∨
     (∃ w, s.q = w :: s'.q ∧ s'.ring = s.ring.pop s.cfg.depth) ∨
     (∃ w, s.q.length < s.cfg.depth ∧ s'.q = s.q ++ [w] ∧ s'.ring = s.ring.push s.cfg.depth w) ∨
     (s'.q = [] ∧ s'.ring = s.ring.clear)) := by
  obtain ⟨-, ⟨-, htick⟩ | ⟨-, rfl⟩ | ⟨-, rfl⟩ | ⟨a, b, -, rfl⟩⟩ := step_cases h
  · obtain ⟨hcfg, hsame | hpop⟩ := tick_queue htick
    · exact ⟨hcfg, .inl hsame⟩
    · exact ⟨hcfg, .inr (.inl hpop)⟩
  · rcases producerTurn_cases (dropTurn s) with ⟨-, he⟩ | ⟨_, _, -, -, he⟩ | ⟨w, ws, -, hroom, he⟩ <;> rw [he]
    · exact ⟨rfl, .inl ⟨rfl, rfl⟩⟩
    · exact ⟨rfl, .inl ⟨rfl, rfl⟩⟩
    · exact ⟨rfl, .inr (.inr (.inl ⟨w, hroom, rfl, rfl⟩))⟩
  · exact ⟨rfl, .inl ⟨rfl, rfl⟩⟩
  · exact ⟨rfl, .inr (.inr (.inr ⟨rfl, rfl⟩))⟩

theorem step_cfg {s s' : State} (h : step s = .next s') : s'.cfg = s.cfg := (step_queue h).1

/-- What every step keeps, a run keeps. -/
theorem runFor_keeps {P : State → Prop} (hstep : ∀ {s s' : State}, P s → step s = .next s' → P s') {n : Nat}
    {s s' : State} (h : P s) (hrun : runFor n s = .next s') : P s' := by
  induction n generalizing s with
  | zero =>
    obtain rfl : s = s' := by simpa using hrun
    exact h
  | succ n ih =>
    obtain ⟨s₁, hfirst, hrest⟩ := runFor_succ hrun
    exact ih (hstep h hfirst) hrest

theorem runFor_cfg {n : Nat} {s s' : State} (h : runFor n s = .next s') : s'.cfg = s.cfg :=
  runFor_keeps (P := fun x => x.cfg = s.cfg) (fun hx hs => (step_cfg hs).trans hx) rfl h

end Sys2Proof.Machine
end

section
/-! The invariant of R50: each operation keeps it, so every step does. Reset establishes it. -/

namespace Sys2Proof.Machine

/-- Every register the invariant speaks of at its reset value (R320). -/
theorem Inv.of_reset {s : State} (hbuild : s.cfg.WellFormed) (ht : s.t = 0) (hnext : s.nextT = 0)
    (hemit : s.emit = false) (hdec : s.decState = .empty) (hlen : s.symLen = 0) (hq : s.q = []) : Inv s where
  build := hbuild
  index := indexInTable hbuild
  tones := by simp [hdec]
  others := fun _ => hlen
  queue := by simp [hq]
  emitting := by simp [hemit]
  counter := by simp [ht]
  counting := fun hne => absurd hnext hne
  span := .inl hnext

/-- The invariant does not read the schedule, the producer's words, the ring or the outputs. -/
theorem Inv.dropTurn {s : State} (h : Inv s) : Inv (dropTurn s) :=
  ⟨h.build, h.index, h.tones, h.others, h.queue, h.emitting, h.counter, h.counting, h.span⟩

theorem Inv.quietCycle {s : State} (h : Inv s) : Inv (quietCycle s) :=
  ⟨h.build, h.index, h.tones, h.others, h.queue, h.emitting, h.counter, h.counting, h.span⟩

theorem Inv.present {s : State} (h : Inv s) (idx : WaveIndex s.cfg) (v : Sample) : Inv (present s idx v) :=
  ⟨h.build, index_lt h.build _, h.tones, h.others, h.queue, h.emitting, h.counter, h.counting, h.span⟩

theorem Inv.resetAll {s : State} (h : Inv s) : Inv (resetAll s) := .of_reset h.build rfl rfl rfl rfl rfl rfl

/-- The clauses on the decoder and the queue, apart from those on the counter. -/
theorem Inv.withDecoder {s : State} (h : Inv s) {d : DecState} {len code : Mask} {q : List Word} {ring : Ring}
    {toPush : List Word} (tones : d = .tones → len ≠ 0) (others : d ≠ .tones → len = 0)
    (queue : q.length ≤ s.cfg.depth) :
    Inv { s with decState := d, symLen := len, symCode := code, q := q, ring := ring, toPush := toPush } :=
  ⟨h.build, h.index, tones, others, queue, h.emitting, h.counter, h.counting, h.span⟩

/-- The clauses on the counter, apart from those on the decoder and the queue. -/
theorem Inv.withCounter {s : State} (h : Inv s) {t nextT : Counter} {emit : Bool}
    (emitting : emit = true → (nextT = dur s.cfg .dit ∨ nextT = dur s.cfg .dah) ∧ 1 ≤ t.toNat ∧ t.toNat ≤ nextT.toNat)
    (counter : t.toNat ≤ nextT.toNat + s.cfg.u) (counting : nextT ≠ 0 → 1 ≤ t.toNat)
    (span : nextT = 0 ∨ nextT = idleSpan s.cfg ∨ nextT = dur s.cfg .dit ∨ nextT = dur s.cfg .dah ∨
      nextT = dur s.cfg .lgap ∨ nextT = dur s.cfg .wgap) :
    Inv { s with t := t, nextT := nextT, emit := emit } :=
  ⟨h.build, h.index, h.tones, h.others, h.queue, emitting, counter, counting, span⟩

/-- A push is taken only where there is room (R173). -/
theorem Inv.producerTurn {s : State} (h : Inv s) : Inv (producerTurn s) := by
  rcases producerTurn_cases s with ⟨-, he⟩ | ⟨_, _, -, -, he⟩ | ⟨w, ws, -, hroom, he⟩ <;> rw [he]
  · exact h
  · exact h
  · exact h.withDecoder h.tones h.others (by simpa using hroom)

/-- TRAIL follows exactly when no tone is left, whatever the masks were (R143, R146, R148). -/
theorem Inv.shiftMasks {s : State} (h : Inv s) (len code : Mask) : Inv (shiftMasks len code s) :=
  h.withDecoder (by simp) (by simp) h.queue

theorem Inv.closeLetter {s : State} (h : Inv s) (htrail : s.decState = .trail) : Inv (closeLetter s) :=
  h.withDecoder (by simp) (fun _ => h.others (by simp [htrail])) h.queue

theorem Inv.fifoDrop {s : State} (h : Inv s) : Inv (fifoDrop s) :=
  h.withDecoder h.tones h.others ((List.tail_sublist _).length_le.trans h.queue)

/-- The decoder's answer keeps the invariant: it touches the decoder and the queue only (R142 to R148). -/
theorem Inv.nextElement {s e : State} {o : Option Kind} (h : Inv s) (he : nextElement s = (o, e)) : Inv e := by
  rcases nextElement_cases s with
    ⟨-, hs⟩ | ⟨htrail, hs⟩ | ⟨-, -, hs⟩ | ⟨_, _, -, -, -, hs⟩ | ⟨_, _, -, -, -, hs⟩ <;>
    cases hs.symm.trans he
  · exact h.shiftMasks _ _
  · exact h.closeLetter htrail
  · exact h
  · exact h.fifoDrop
  · exact h.fifoDrop.shiftMasks _ _

/-- R50 (g) as a bound: `next_t` never exceeds the longest span. -/
theorem Inv.nextT_le {s : State} (h : Inv s) : s.nextT.toNat ≤ max (7 * s.cfg.u) (s.cfg.f + 1) := by
  have hdur (k : Kind) : (dur s.cfg k).toNat ≤ max (7 * s.cfg.u) (s.cfg.f + 1) :=
    (dur_toNat h.build k).trans_le ((durTicks_bounds h.build k).2.trans (le_max_left _ _))
  rcases h.span with hs | hs | hs | hs | hs | hs <;> rw [hs]
  · exact Nat.zero_le _
  · exact (idleSpan_toNat h.build).trans_le (le_max_right _ _)
  all_goals exact hdur _

/-- The counter's bound of R51. -/
theorem Inv.t_le {s : State} (h : Inv s) : s.t.toNat ≤ max (7 * s.cfg.u) (s.cfg.f + 1) + s.cfg.u :=
  h.counter.trans (Nat.add_le_add_right h.nextT_le _)

/-- The end of the gap is computed without wrapping (R240). -/
theorem Inv.gapEnd_toNat {s : State} (h : Inv s) : (s.nextT + gap s.cfg).toNat = s.nextT.toNat + s.cfg.u := by
  have hfit := wellFormed_counters h.build
  have hnext := h.nextT_le
  rw [BitVec.toNat_add, gap_toNat h.build, Nat.mod_eq_of_lt (by omega)]

/-- Short of the end of the gap, counting on does not wrap (R240). -/
theorem Inv.t_succ_toNat {s : State} (h : Inv s) (hlt : s.t.toNat < s.nextT.toNat + s.cfg.u) :
    (s.t + 1).toNat = s.t.toNat + 1 := by
  have hfit := wellFormed_counters h.build
  have hnext := h.nextT_le
  have hadd : (s.t + 1).toNat = (s.t.toNat + 1) % 2 ^ 32 := BitVec.toNat_add _ _
  rw [hadd, Nat.mod_eq_of_lt (by omega)]

/-- END_TONE closes the emit window at its end and the gap begins (R223). -/
theorem Inv.endTone {s : State} (h : Inv s) (hb : branch s = .endTone) : Inv (endTone s) := by
  have hunit := wellFormed_unit h.build
  have ht : s.t.toNat = s.nextT.toNat := congrArg BitVec.toNat (branch_endTone_iff.1 hb)
  have hsucc := h.t_succ_toNat (by omega)
  exact h.withCounter (by simp) (by omega) (fun _ => by omega) h.span

/-- HOLD counts on inside the emit window, or inside the gap or the idle span (R230). -/
theorem Inv.hold {s : State} (h : Inv s) (hb : branch s = .hold) : Inv (hold s) := by
  obtain ⟨hnext, hgap⟩ := branch_hold_iff.1 hb
  have hnext : s.t.toNat ≠ s.nextT.toNat := fun he => hnext (BitVec.eq_of_toNat_eq he)
  have hgap : s.t.toNat ≠ s.nextT.toNat + s.cfg.u := fun he =>
    hgap (BitVec.eq_of_toNat_eq (he.trans h.gapEnd_toNat.symm))
  have hcounter := h.counter
  have hsucc := h.t_succ_toNat (by omega)
  refine h.withCounter (fun hemit => ?_) (by omega) (fun _ => by omega) h.span
  obtain ⟨htone, -, hle⟩ := h.emitting hemit
  exact ⟨htone, by omega, by omega⟩

/-- ELEMENT_START opens the emit window of a tone at its offset 1 (R225). -/
theorem Inv.elementStart {s : State} (h : Inv s) (k : Kind) : Inv (elementStart k s) := by
  have hdur : 1 ≤ (dur s.cfg k).toNat := (dur_toNat h.build k).symm ▸ (durTicks_bounds h.build k).1
  refine h.withCounter (fun hemit => ⟨?_, le_rfl, hdur⟩)
    ((wellFormed_unit h.build).trans (Nat.le_add_left _ _)) (fun _ => le_rfl) (by cases k <;> simp)
  exact (tone_of_kindEmits hemit).imp (congrArg (dur s.cfg)) (congrArg (dur s.cfg))

/-- IDLE_POLL is silent for the idle span (R226). -/
theorem Inv.idlePoll {s : State} (h : Inv s) : Inv (idlePoll s) :=
  h.withCounter (by simp) ((wellFormed_unit h.build).trans (Nat.le_add_left _ _)) (fun _ => le_rfl) (.inr (.inl rfl))

/-- A tick keeps the invariant; it leaves `next_t` alone off the boundary, and loads a span that is not 0 on it. -/
theorem Inv.tick {s s' : State} (h : Inv s) (ht : tick s = .next s') :
    Inv s' ∧ (s'.nextT = 0 → s.nextT = 0 ∧ branch s ≠ .boundary) := by
  rcases tick_cases ht with ⟨hb, v, -, rfl⟩ | ⟨hb, v, -, rfl⟩ | ⟨-, k, e, v, he, -, rfl⟩ | ⟨-, e, v, he, -, rfl⟩
  · exact ⟨(h.endTone hb).present _ _, fun hzero => ⟨hzero, by simp [hb]⟩⟩
  · exact ⟨(h.hold hb).present _ _, fun hzero => ⟨hzero, by simp [hb]⟩⟩
  · have hinv := h.nextElement he
    exact ⟨(hinv.elementStart k).present _ _, fun hzero => absurd hzero (dur_ne_zero hinv.build k)⟩
  · have hinv := h.nextElement he
    exact ⟨hinv.idlePoll.present _ _, fun hzero => absurd hzero (idleSpan_ne_zero hinv.build)⟩

@[simp] theorem producerTurn_nextT (s : State) : (producerTurn s).nextT = s.nextT := by
  rcases producerTurn_cases s with ⟨-, he⟩ | ⟨_, _, -, -, he⟩ | ⟨_, _, -, -, he⟩ <;> simp [he]

/-- Every turn but a tick is off the boundary. -/
theorem atBoundary_eq_false_of_turn {s : State} (h : nextTurn s ≠ .tick) : atBoundary s = false := by
  simp [atBoundary, h]

theorem atBoundary_eq_false_of_branch {s : State} (h : branch s ≠ .boundary) : atBoundary s = false := by
  simp [atBoundary, h]

/-- Every step keeps the invariant, and `next_t` returns to 0 by reset only. -/
theorem Inv.step {s s' : State} (h : Inv s) (hstep : step s = .next s') :
    Inv s' ∧ (s'.nextT = 0 → (s.nextT = 0 ∧ atBoundary s = false) ∨ ∃ a b, nextTurn s = .reset a b) := by
  obtain ⟨-, ⟨-, ht⟩ | ⟨hturn, rfl⟩ | ⟨hturn, rfl⟩ | ⟨a, b, hturn, rfl⟩⟩ := step_cases hstep
  · obtain ⟨hinv, hnext⟩ := h.dropTurn.tick ht
    refine ⟨hinv, fun hzero => .inl ?_⟩
    obtain ⟨hbefore, hbranch⟩ := hnext hzero
    exact ⟨hbefore, atBoundary_eq_false_of_branch hbranch⟩
  · refine ⟨h.dropTurn.producerTurn, fun hzero => .inl ?_⟩
    exact ⟨by simpa using hzero, atBoundary_eq_false_of_turn (by simp [hturn])⟩
  · exact ⟨h.dropTurn.quietCycle, fun hzero => .inl ⟨hzero, atBoundary_eq_false_of_turn (by simp [hturn])⟩⟩
  · exact ⟨h.dropTurn.resetAll, fun _ => .inr ⟨a, b, hturn⟩⟩

theorem Inv.runFor {n : Nat} {s s' : State} (h : Inv s) (hrun : runFor n s = .next s') : Inv s' :=
  runFor_keeps (fun hinv hstep => (hinv.step hstep).1) h hrun

end Sys2Proof.Machine
end

section
/-! The ring of R41 holds the words of the queue: each move of the queue keeps it so. -/

namespace Sys2Proof.Machine

/-- The number of words between the pointers is what leads from `rd_ptr` to `wr_ptr`, modulo `2·DEPTH` (R41). -/
theorem Ring.length_eq_iff {r : Ring} {depth n : Nat} (hwr : r.wrPtr < 2 * depth) (hrd : r.rdPtr < 2 * depth)
    (hn : n < 2 * depth) : r.length depth = n ↔ (r.rdPtr + n) % (2 * depth) = r.wrPtr := by
  have hcancel : r.rdPtr + (r.wrPtr + (2 * depth - r.rdPtr)) = r.wrPtr + 2 * depth := by omega
  constructor
  · rintro rfl
    rw [Ring.length, Nat.add_mod_mod, hcancel, Nat.add_mod_right, Nat.mod_eq_of_lt hwr]
  · intro h
    have hcongr : r.wrPtr + (2 * depth - r.rdPtr) ≡ n [MOD 2 * depth] :=
      Nat.ModEq.add_left_cancel' r.rdPtr (by
        rw [Nat.ModEq, hcancel, Nat.add_mod_right, Nat.mod_eq_of_lt hwr, h])
    exact Nat.mod_eq_of_modEq hcongr hn

theorem Ring.words_length (r : Ring) (depth : Nat) : (r.words depth).length = r.length depth := by
  simp [Ring.words]

/-- Pointers count modulo `2·DEPTH` and slots modulo `DEPTH`, so a reduced pointer keeps its slot (R41). -/
theorem mod_twice_mod (n depth : Nat) : n % (2 * depth) % depth = n % depth :=
  Nat.mod_mod_of_dvd n (Nat.dvd_mul_left depth 2)

/-- Two places of the queue share a slot only if they are the same place. -/
theorem slot_ne_of_lt {depth rd k n : Nat} (hk : k < n) (hn : n < depth) : (rd + k) % depth ≠ (rd + n) % depth :=
  fun h => hk.ne (Nat.ModEq.eq_of_lt_of_lt (Nat.ModEq.add_left_cancel' rd h) (hk.trans hn) hn)

theorem Ring.push_length {r : Ring} {depth : Nat} (hwr : r.wrPtr < 2 * depth) (hrd : r.rdPtr < 2 * depth)
    (hroom : r.length depth < depth) (w : Word) : (r.push depth w).length depth = r.length depth + 1 := by
  have hend := (Ring.length_eq_iff hwr hrd (by omega)).1 rfl
  refine (Ring.length_eq_iff (r := r.push depth w) (Nat.mod_lt _ (Nat.zero_lt_of_lt hwr)) hrd (by omega)).2 ?_
  show (r.rdPtr + (r.length depth + 1)) % (2 * depth) = (r.wrPtr + 1) % (2 * depth)
  rw [← hend, Nat.mod_add_mod, Nat.add_assoc]

/-- The pushed word comes last, and no word already there is overwritten (R41, R172). -/
theorem Ring.push_words {r : Ring} {depth : Nat} (hwr : r.wrPtr < 2 * depth) (hrd : r.rdPtr < 2 * depth)
    (hroom : r.length depth < depth) (w : Word) : (r.push depth w).words depth = r.words depth ++ [some w] := by
  have hend := (Ring.length_eq_iff hwr hrd (by omega)).1 rfl
  have hslot : r.wrPtr % depth = (r.rdPtr + r.length depth) % depth := by rw [← hend, mod_twice_mod]
  have hlast : (r.push depth w).mem.read ((r.rdPtr + r.length depth) % depth) = some w :=
    hslot ▸ Memory.read_write_same _ _ _
  have hearlier : ∀ k ∈ List.range (r.length depth),
      (r.push depth w).mem.read ((r.rdPtr + k) % depth) = r.mem.read ((r.rdPtr + k) % depth) := fun k hk =>
    Memory.read_write_other _ _ (hslot ▸ slot_ne_of_lt (List.mem_range.1 hk) hroom)
  unfold Ring.words
  rw [Ring.push_length hwr hrd hroom, List.range_succ, List.map_append]
  exact congrArg₂ _ (List.map_congr_left hearlier) (congrArg (fun x => [x]) hlast)

theorem Ring.pop_length {r : Ring} {depth n : Nat} (hwr : r.wrPtr < 2 * depth) (hrd : r.rdPtr < 2 * depth)
    (hn : n + 1 < 2 * depth) (hlen : r.length depth = n + 1) : (r.pop depth).length depth = n := by
  have hend := (Ring.length_eq_iff hwr hrd hn).1 hlen
  refine (Ring.length_eq_iff (r := r.pop depth) hwr (Nat.mod_lt _ (Nat.zero_lt_of_lt hrd)) (by omega)).2 ?_
  show ((r.rdPtr + 1) % (2 * depth) + n) % (2 * depth) = r.wrPtr
  rw [← hend, Nat.mod_add_mod, Nat.add_assoc, Nat.add_comm 1]

/-- A pop gives up the first word and leaves the others in order (R41, R175). -/
theorem Ring.pop_words {r : Ring} {depth n : Nat} (hwr : r.wrPtr < 2 * depth) (hrd : r.rdPtr < 2 * depth)
    (hn : n + 1 < 2 * depth) (hlen : r.length depth = n + 1) : (r.pop depth).words depth = (r.words depth).tail := by
  have hslot (k : Nat) : ((r.pop depth).rdPtr + k) % depth = (r.rdPtr + (k + 1)) % depth := by
    show ((r.rdPtr + 1) % (2 * depth) + k) % depth = _
    rw [Nat.add_mod, mod_twice_mod, ← Nat.add_mod, Nat.add_assoc, Nat.add_comm 1]
  unfold Ring.words
  rw [Ring.pop_length hwr hrd hn hlen, hlen, List.range_succ_eq_map, List.map_cons, List.tail_cons, List.map_map]
  exact List.map_congr_left fun k _ => congrArg r.mem.read (hslot k)

theorem RingHoldsQueue.length {s : State} (h : RingHoldsQueue s) : s.ring.length s.cfg.depth = s.q.length := by
  rw [← Ring.words_length, h.words, List.length_map]

/-- The relation reads the build, the queue and the ring only. -/
theorem RingHoldsQueue.congr {s s' : State} (h : RingHoldsQueue s) (hcfg : s'.cfg = s.cfg) (hq : s'.q = s.q)
    (hring : s'.ring = s.ring) : RingHoldsQueue s' := by
  constructor <;> rw [hring]
  · rw [hcfg, hq]; exact h.words
  · rw [hcfg]; exact h.wrPtr
  · rw [hcfg]; exact h.rdPtr
  · exact h.wrSeen
  · exact h.rdSeen
  · exact h.form
  · rw [hcfg]; exact h.slots

theorem RingHoldsQueue.fifoPush {s : State} (h : RingHoldsQueue s) (hroom : s.q.length < s.cfg.depth) (w : Word) :
    RingHoldsQueue (fifoPush w s) where
  words := by
    rw [fifoPush_ring, fifoPush_cfg, fifoPush_q, Ring.push_words h.wrPtr h.rdPtr (h.length ▸ hroom), h.words,
      List.map_append, List.map_singleton]
  wrPtr := Nat.mod_lt _ (Nat.zero_lt_of_lt h.wrPtr)
  rdPtr := h.rdPtr
  wrSeen := rfl
  rdSeen := h.rdSeen
  form := Ring.push_wf h.form _ _
  slots := fun c hc => by
    rcases Memory.mem_write hc with rfl | hold
    · exact Nat.mod_lt _ (Nat.zero_lt_of_lt hroom)
    · exact h.slots c hold

theorem RingHoldsQueue.fifoDrop {s : State} {w : Word} {ws : List Word} (h : RingHoldsQueue s) (hq : s.q = w :: ws)
    (hfull : s.q.length ≤ s.cfg.depth) : RingHoldsQueue (fifoDrop s) where
  words := by
    have hlen : s.ring.length s.cfg.depth = ws.length + 1 := by rw [h.length, hq, List.length_cons]
    have hn : ws.length + 1 < 2 * s.cfg.depth := by rw [hq, List.length_cons] at hfull; omega
    rw [fifoDrop_ring, fifoDrop_cfg, fifoDrop_q, Ring.pop_words h.wrPtr h.rdPtr hn hlen, h.words, List.map_tail]
  wrPtr := h.wrPtr
  rdPtr := Nat.mod_lt _ (Nat.zero_lt_of_lt h.rdPtr)
  wrSeen := h.wrSeen
  rdSeen := rfl
  form := h.form
  slots := h.slots

/-- With both pointers at 0 the ring holds the empty queue, whatever the slots hold (R320). -/
theorem RingHoldsQueue.of_clear {s : State} (hdepth : 1 ≤ s.cfg.depth) (hq : s.q = [])
    (hring : s.ring = s.ring.clear) (hform : Memory.wf s.ring.mem = true)
    (hslots : ∀ c ∈ s.ring.mem, c.1 < s.cfg.depth) : RingHoldsQueue s where
  words := by rw [hq, hring]; simp [Ring.words, Ring.length, Ring.clear, Ring.reset]
  wrPtr := by rw [hring]; exact (by omega : 0 < 2 * s.cfg.depth)
  rdPtr := by rw [hring]; exact (by omega : 0 < 2 * s.cfg.depth)
  wrSeen := by rw [hring]; rfl
  rdSeen := by rw [hring]; rfl
  form := hform
  slots := hslots

theorem RingHoldsQueue.resetAll {s : State} (h : RingHoldsQueue s) (hbuild : s.cfg.WellFormed) :
    RingHoldsQueue (resetAll s) :=
  .of_clear (wellFormed_depth hbuild) rfl rfl h.form h.slots

/-- Each of the four things a step can do to the queue it does to the ring (R41). -/
theorem RingHoldsQueue.step {s s' : State} (h : RingHoldsQueue s) (hfull : s.q.length ≤ s.cfg.depth)
    (hstep : step s = .next s') : RingHoldsQueue s' := by
  obtain ⟨hcfg, ⟨hq, hring⟩ | ⟨w, hq, hring⟩ | ⟨w, hroom, hq, hring⟩ | ⟨hq, hring⟩⟩ := step_queue hstep
  · exact h.congr hcfg hq hring
  · exact (h.fifoDrop hq hfull).congr hcfg (by rw [fifoDrop_q, hq, List.tail_cons]) hring
  · exact (h.fifoPush hroom w).congr hcfg hq hring
  · exact (h.resetAll (step_cases hstep).1).congr hcfg hq hring

end Sys2Proof.Machine
end

section
/-! The statements of the state family: the invariant, the ring, and the frame of an instruction. -/

open Sys2Proof Sys2Proof.Machine

/-- Settles O32: each operation keeps the invariant, so a step does; `next_t` returns to 0 by reset only. -/
theorem everyStepKeepsTheInvariant : Obligations.EveryStepKeepsTheInvariant :=
  fun _ _ h hstep => h.step hstep

/-- Settles O33, by induction on the number of steps: reset meets the invariant and every step keeps it. -/
theorem reachableStatesMeetTheInvariant : Obligations.ReachableStatesMeetTheInvariant := by
  intro c words turns n s hbuild hrun
  have hinv : Inv s := (Inv.of_reset hbuild rfl rfl rfl rfl rfl rfl).runFor hrun
  have hcfg : s.cfg = c := runFor_cfg hrun
  exact ⟨hinv, hcfg ▸ hinv.t_le⟩

/-- Settles O35: the queue and the ring move together, and each move keeps the words between the pointers. -/
theorem ringRealisesTheQueue : Obligations.RingRealisesTheQueue :=
  fun _ _ hfull h hstep => h.step hfull hstep

/-- Settles O16: every row but DEC_EMPTY starts an element and writes the decoder's registers at most before it;
DEC_EMPTY idles, or does so after a pop. -/
theorem instructionFrame : Obligations.InstructionFrame := by
  intro i s s' h
  rcases exec_onlyPlays h with ⟨hi, hplays⟩ | ⟨hi, hq, hplays⟩ | ⟨hi, hplays⟩ <;>
    obtain ⟨hcfg, hpush, hturns, hqueue, hring, hdac⟩ := hplays
  · simp [hcfg, hpush, hturns, hqueue, hring, hdac, hi]
  · simp [hcfg, hpush, hturns, hqueue, hring, hdac, hi, hq]
  · simp [hcfg, hpush, hturns, hqueue, hring, hdac, hi, Ring.pop]

/-- Settles O31: every register is at its reset value, both channels are 0, and both pointers are 0. -/
theorem resetMeetsTheInvariant : Obligations.ResetMeetsTheInvariant := by
  intro c words turns hbuild
  refine ⟨.of_reset hbuild rfl rfl rfl rfl rfl rfl, ?_, .of_clear (wellFormed_depth hbuild) rfl rfl rfl ?_⟩
  · exact
      { channels := rfl
        shown := rfl
        silent := fun _ => rfl
        sample := fun hemit => absurd hemit Bool.false_ne_true
        index := fun hemit => absurd hemit Bool.false_ne_true }
  · exact fun c hc => absurd hc List.not_mem_nil

end

section
/-! The words a turn pops and pushes, and the queue before and after it (R80, R142, R172, R180); over a run, the order of
the words (R81). -/

namespace Sys2Proof.Machine

theorem atBoundary_iff {s : State} : atBoundary s = true ↔ nextTurn s = .tick ∧ branch s = .boundary := by
  simp [atBoundary]

theorem eq_gapEnd_of_branch_boundary {s : State} (h : branch s = .boundary) : s.t = s.nextT + gap s.cfg := by
  rw [branch_eq] at h
  split_ifs at h with hnext hgap
  exact hgap

theorem poppedNow_of_not_boundary {s : State} (h : atBoundary s = false) : poppedNow s = none := by
  simp [poppedNow, h]

theorem poppedNow_of_boundary {s : State} (h : atBoundary s = true) :
    poppedNow s = if s.decState = .empty then s.q.head? else none := by
  simp [poppedNow, h]

/-- No word is popped but on a boundary tick of an EMPTY decoder (R142, R180). -/
theorem boundary_of_poppedNow_ne_none {s : State} (h : poppedNow s ≠ none) :
    atBoundary s = true ∧ s.decState = .empty := by
  by_contra hnot
  exact h (if_neg hnot)

theorem pushedNow_of_not_push {s : State} (h : nextTurn s ≠ .push) : pushedNow s = none := by
  simp [pushedNow, h]

theorem pushedNow_of_push {s : State} (h : nextTurn s = .push) :
    pushedNow s = if s.q.length < s.cfg.depth then s.toPush.head? else none := by
  simp [pushedNow, h, wrReady]

/-- The decoder's answer takes the head off the queue if the decoder is EMPTY, and leaves the queue as it is otherwise
(R142, R175). -/
theorem nextElement_pops {s e : State} {o : Option Kind} (h : nextElement s = (o, e)) :
    (if s.decState = .empty then s.q.head? else none).toList ++ e.q = s.q := by
  rcases nextElement_cases s with ⟨hd, he⟩ | ⟨hd, he⟩ | ⟨hd, hq, he⟩ | ⟨w, ws, hd, hq, -, he⟩ | ⟨w, ws, hd, hq, -, he⟩ <;>
    cases he.symm.trans h
  · simp [hd]
  · simp [hd]
  · simp [hq]
  · simp [hd, hq]
  · simp [hd, hq]

theorem nextElement_toPush {s e : State} {o : Option Kind} (h : nextElement s = (o, e)) : e.toPush = s.toPush := by
  rw [(nextElement_frame h).1]

/-- A tick takes off the queue the word popped, if any, and leaves the producer's words. -/
theorem tick_pops {s s' : State} (hturn : nextTurn s = .tick) (h : tick (dropTurn s) = .next s') :
    (poppedNow s).toList ++ s'.q = s.q ∧ s'.toPush = s.toPush := by
  have offBoundary (hb : branch s ≠ .boundary) : poppedNow s = none :=
    poppedNow_of_not_boundary (atBoundary_eq_false_of_branch hb)
  have onBoundary (hb : branch s = .boundary) {o : Option Kind} {e : State} (he : nextElement (dropTurn s) = (o, e)) :
      (poppedNow s).toList ++ e.q = s.q ∧ e.toPush = s.toPush := by
    rw [poppedNow_of_boundary (atBoundary_iff.2 ⟨hturn, hb⟩)]
    exact ⟨nextElement_pops (s := dropTurn s) he, nextElement_toPush (s := dropTurn s) he⟩
  rcases tick_cases h with ⟨hb, v, -, rfl⟩ | ⟨hb, v, -, rfl⟩ | ⟨hb, k, e, v, he, -, rfl⟩ | ⟨hb, e, v, he, -, rfl⟩ <;>
    rw [branch_dropTurn] at hb
  · simp [offBoundary (by simp [hb])]
  · simp [offBoundary (by simp [hb])]
  · simpa using onBoundary hb he
  · simpa using onBoundary hb he

/-- A push turn appends the word pushed, if any, which is the first the producer had (R172, R173). -/
theorem producerTurn_pushes {s : State} (hturn : nextTurn s = .push) :
    (producerTurn (dropTurn s)).q = s.q ++ (pushedNow s).toList ∧
    (pushedNow s).toList ++ (producerTurn (dropTurn s)).toPush = s.toPush := by
  rw [pushedNow_of_push hturn]
  rcases producerTurn_cases (dropTurn s) with ⟨hnone, he⟩ | ⟨w, ws, hword, hfull, he⟩ | ⟨w, ws, hword, hroom, he⟩ <;>
    rw [he]
  · simp [show s.toPush = [] from hnone]
  · simp [show ¬ s.q.length < s.cfg.depth from hfull.not_gt]
  · simp [show s.toPush = w :: ws from hword, show s.q.length < s.cfg.depth from hroom]

/-- A step other than reset takes the word popped off the queue's head and puts the word pushed at its tail (R80). -/
theorem step_pops_pushes {s s' : State} (h : step s = .next s') (hrun : (nextTurn s).keepsRunning = true) :
    (poppedNow s).toList ++ s'.q = s.q ++ (pushedNow s).toList ∧ (pushedNow s).toList ++ s'.toPush = s.toPush := by
  obtain ⟨-, ⟨hturn, htick⟩ | ⟨hturn, rfl⟩ | ⟨hturn, rfl⟩ | ⟨a, b, hturn, rfl⟩⟩ := step_cases h
  · rw [pushedNow_of_not_push (by simp [hturn])]
    simpa using tick_pops hturn htick
  · rw [poppedNow_of_not_boundary (atBoundary_eq_false_of_turn (by simp [hturn]))]
    exact producerTurn_pushes hturn
  · rw [pushedNow_of_not_push (by simp [hturn]),
      poppedNow_of_not_boundary (atBoundary_eq_false_of_turn (by simp [hturn]))]
    exact ⟨(List.append_nil _).symm, rfl⟩
  · exact absurd hrun (by simp [hturn, Turn.keepsRunning])

/-- A queue that gets shorter has been popped. -/
theorem poppedNow_ne_none_of_shorter {s s' : State} (h : step s = .next s')
    (hrun : (nextTurn s).keepsRunning = true) (hlt : s'.q.length < s.q.length) : poppedNow s ≠ none := by
  intro hnone
  obtain ⟨hq, -⟩ := step_pops_pushes h hrun
  have hlen := congrArg List.length hq
  simp only [hnone, Option.toList_none, List.nil_append, List.length_append] at hlen
  omega

/-- When the schedule is used up ticks go on, so the next turn, too, is no reset. -/
theorem nextTurn_keepsRunning {s : State} (h : ∀ turn ∈ s.turns, turn.keepsRunning = true) :
    (nextTurn s).keepsRunning = true := by
  unfold nextTurn
  split
  · rfl
  · next turn rest hs => exact h turn (by simp [hs])

/-- Over a run without reset: the words popped and those left are those queued and those pushed, in order (R81). -/
theorem runFor_pops_pushes {n : Nat} {s s' : State} (hturns : ∀ turn ∈ s.turns, turn.keepsRunning = true)
    (hrun : runFor n s = .next s') :
    overRun poppedNow n s ++ s'.q = s.q ++ overRun pushedNow n s ∧ overRun pushedNow n s ++ s'.toPush = s.toPush := by
  induction n generalizing s with
  | zero =>
    obtain rfl : s = s' := by simpa using hrun
    simp
  | succ n ih =>
    obtain ⟨s₁, hfirst, hrest⟩ := runFor_succ hrun
    obtain ⟨hq, hpush⟩ := step_pops_pushes hfirst (nextTurn_keepsRunning hturns)
    obtain ⟨ihq, ihpush⟩ := ih (step_turns hfirst ▸ turns_tail_forall hturns) hrest
    rw [overRun_succ poppedNow hfirst, overRun_succ pushedNow hfirst]
    constructor
    · rw [List.append_assoc, ihq, ← List.append_assoc, hq, List.append_assoc]
    · rw [List.append_assoc, ihpush, hpush]

end Sys2Proof.Machine

open Sys2Proof Sys2Proof.Machine

/-- Settles O30, by induction on the number of steps, each of which takes from the head and adds at the tail. -/
theorem wordsArePoppedInTheOrderPushed : Obligations.WordsArePoppedInTheOrderPushed :=
  fun _ _ _ hturns hrun => runFor_pops_pushes hturns hrun

/-- Settles O29: the account of one step, of which the last clause is what a shorter queue leaves open. -/
theorem queueChangesOnlyByPushAndPop : Obligations.QueueChangesOnlyByPushAndPop := by
  intro s s' h hrun
  obtain ⟨hq, hpush⟩ := step_pops_pushes h hrun
  refine ⟨hq, hpush, fun hlt => ?_⟩
  obtain ⟨hboundary, hempty⟩ := boundary_of_poppedNow_ne_none (poppedNow_ne_none_of_shorter h hrun hlt)
  obtain ⟨hturn, hbranch⟩ := atBoundary_iff.1 hboundary
  exact ⟨hturn, eq_gapEnd_of_branch_boundary hbranch, hempty⟩

end

section
/-! Symbol words and their rows (R100, R104, R107): the two masks of a word, and that decoding and encoding undo one
another. -/

namespace Sys2Proof

theorem getLsbD_lengthMask (w : Word) {k : Nat} (hk : k < 4) : (lengthMask w).getLsbD k = w.getLsbD k := by
  simp [lengthMask, hk]

theorem getLsbD_codeMask (w : Word) {k : Nat} (hk : k < 4) : (codeMask w).getLsbD k = w.getLsbD (4 + k) := by
  simp [codeMask, hk]

@[simp] theorem lengthMask_mkWord (code len : Mask) : lengthMask (mkWord code len) = len := by
  refine BitVec.eq_of_getLsbD_eq fun k hk => ?_
  rw [getLsbD_lengthMask _ hk, mkWord, BitVec.getLsbD_append, if_pos hk]

@[simp] theorem codeMask_mkWord (code len : Mask) : codeMask (mkWord code len) = code := by
  refine BitVec.eq_of_getLsbD_eq fun k hk => ?_
  rw [getLsbD_codeMask _ hk, mkWord, BitVec.getLsbD_append, if_neg (by omega), Nat.add_sub_cancel_left]

@[simp] theorem mkWord_masks (w : Word) : mkWord (codeMask w) (lengthMask w) = w := by
  refine BitVec.eq_of_getLsbD_eq fun k hk => ?_
  rw [mkWord, BitVec.getLsbD_append]
  split_ifs with hlow
  · exact getLsbD_lengthMask w hlow
  · rw [getLsbD_codeMask w (by omega), Nat.add_sub_cancel' (by omega)]

/-- Decoding a row's own code reads its masks back (R104); a letter or rest mark has the code of its class row, so it
decodes to that (R114, R116). -/
theorem decode_encode {i : Instr} (h : i.WellFormed) : decode (encode i) = .ok (canonical i) := by
  cases i with
  | restL code | restW code => simpa [decode, encode, canonical, decodeWord, Instr.WellFormed, Instr.wellFormed] using h
  | letter1 code | letter2 code | letter3 code | letter4 code | reserved2 code | reserved4 code | reserved5 code
  | reserved6 code | reserved8 code | reserved9 code | reservedA code | reservedB code | reservedC code
  | reservedD code | reservedE code => simp [decode, encode, canonical, decodeWord]
  | _ => rfl

/-- The row of a word keeps the whole word: the class fixes `length_mask`, and the operand is all of `code_mask`
(R104, R107). -/
theorem encode_decodeWord (w : Word) : (decodeWord w).WellFormed ∧ encode (decodeWord w) = .word w := by
  obtain ⟨code, len, rfl⟩ : ∃ code len, w = mkWord code len := ⟨_, _, (mkWord_masks w).symm⟩
  unfold decodeWord
  rw [lengthMask_mkWord, codeMask_mkWord]
  obtain ⟨n⟩ := len
  fin_cases n
  · cases hbit : code.getLsbD 0
    · exact ⟨congrArg (!·) hbit, rfl⟩
    · exact ⟨hbit, rfl⟩
  all_goals exact ⟨rfl, rfl⟩

theorem encode_decodeKind (k : Code2) : (decodeKind k).WellFormed ∧ encode (decodeKind k) = .kind k := by
  obtain ⟨n⟩ := k
  fin_cases n <;> exact ⟨rfl, rfl⟩

/-- The one code `decode` rejects is `dec_state` = 0b11 (R37). -/
theorem encode_of_decodeDecState {d : Code2} {i : Instr} (h : decodeDecState d = .ok i) :
    i.WellFormed ∧ encode i = .dec d := by
  obtain ⟨n⟩ := d
  fin_cases n <;> cases h <;> exact ⟨rfl, rfl⟩

end Sys2Proof

open Sys2Proof Sys2Proof.Machine Sys2Proof.Claims

/-- Settles O21: every row with a code of its own is read back from its masks, and a pseudo row by its class row. -/
theorem decodeOfEncodeIsTheInstruction : Obligations.DecodeOfEncodeIsTheInstruction :=
  fun _ h => decode_encode h

/-- Settles O22, place by place: a word keeps both masks, and each 2-bit code has one row. -/
theorem encodeOfDecodeIsTheCode : Obligations.EncodeOfDecodeIsTheCode := by
  intro c i h
  cases c with
  | word w => cases h; exact encode_decodeWord w
  | kind k => cases h; exact encode_decodeKind k
  | dec d => exact encode_of_decodeDecState h

/-- Settles O54, bit by bit. -/
theorem symbolWordPacksTheTwoMasks : Obligations.SymbolWordPacksTheTwoMasks :=
  ⟨fun w _ hk => ⟨getLsbD_lengthMask w hk, getLsbD_codeMask w hk⟩, mkWord_masks,
    fun code len => ⟨lengthMask_mkWord code len, codeMask_mkWord code len⟩⟩

/-- Settles O20: each code, written out, is evaluated by the decoder. -/
theorem sampleWordsDecodeAsTheSpecWritesThem : Obligations.SampleWordsDecodeAsTheSpecWritesThem :=
  ⟨rfl, rfl, rfl, rfl, rfl, rfl, rfl, rfl, rfl, rfl, rfl, rfl, rfl, rfl, rfl, rfl⟩

/-- Settles O23: each of the 256 words is held against the seventeen rows. -/
theorem everyWordFallsInExactlyOneClass : Obligations.EveryWordFallsInExactlyOneClass := by
  unfold Obligations.EveryWordFallsInExactlyOneClass
  decide

/-- Settles O55: each of the 256 words is held against the six legal rows. -/
theorem legalWordsExpandByTheirClass : Obligations.LegalWordsExpandByTheirClass := by
  unfold Obligations.LegalWordsExpandByTheirClass
  decide

end

section
/-! Patterns and programs (R100 to R103, R112 to R116): the two masks of a pattern, the word it stands for,
and how a program is cut into patterns and characters. -/

namespace Sys2Proof

open Machine Claims

/-! ### the masks of a pattern -/

theorem kindEmits_eq_isTone (k : Kind) : kindEmits k = isTone k := by cases k <;> rfl

theorem isTone_cases {k : Kind} (h : isTone k = true) : k = .dit ∨ k = .dah :=
  tone_of_kindEmits ((kindEmits_eq_isTone k).trans h)

/-- The first element of a pattern has bit 0 of a mask, and the others the bits above it (R101 to R103). -/
theorem getLsbD_succ_or_shiftLeft {first : Mask} (h : first = 0 ∨ first = 1) (rest : Mask) (i : Nat) :
    (first ||| rest <<< 1).getLsbD (i + 1) = (decide (i + 1 < 4) && rest.getLsbD i) := by
  rcases h with rfl | rfl <;> simp

/-- The length mask of `n` tones is the `n` low bits (R103). -/
theorem getLsbD_lengthOfPattern (p : List Kind) (i : Nat) :
    (lengthOfPattern p).getLsbD i = decide (i < 4 ∧ i < p.length) := by
  induction p generalizing i with
  | nil => simp [lengthOfPattern]
  | cons k rest ih =>
    cases i with
    | zero => simp [lengthOfPattern]
    | succ i =>
      rw [lengthOfPattern, getLsbD_succ_or_shiftLeft (by simp), ih, List.length_cons, ← Bool.decide_and]
      exact decide_eq_decide.2 (by omega)

/-- Bit `i` of the code mask is set exactly for a dah at place `i` (R101, R102). -/
theorem getLsbD_codeOfPattern (p : List Kind) (i : Nat) :
    (codeOfPattern p).getLsbD i = decide (i < 4 ∧ p[i]? = some .dah) := by
  induction p generalizing i with
  | nil => simp [codeOfPattern]
  | cons k rest ih =>
    cases i with
    | zero => by_cases hk : k = .dah <;> simp [codeOfPattern, hk]
    | succ i =>
      rw [codeOfPattern, getLsbD_succ_or_shiftLeft (by split_ifs <;> simp), ih, List.getElem?_cons_succ,
        ← Bool.decide_and]
      exact decide_eq_decide.2 (and_congr_right fun hi => and_iff_right (by omega))

theorem lengthOfPattern_eq_lowBits (p : List Kind) : lengthOfPattern p = lowBits p.length := by
  refine BitVec.eq_of_getLsbD_eq fun i hi => ?_
  rw [getLsbD_lengthOfPattern, lowBits, BitVec.getLsbD_ofNat, Nat.testBit_two_pow_sub_one, Bool.decide_and]

/-- The model and the statements build the code mask alike (R102). -/
theorem codeOfPattern_eq_codeOf (p : List Kind) : codeOfPattern p = codeOf p := by
  induction p with
  | nil => rfl
  | cons k rest ih => rw [codeOfPattern, codeOf, ih]

/-- A mask is clear exactly for the empty pattern. -/
theorem lengthOfPattern_eq_zero_iff (p : List Kind) : lengthOfPattern p = 0 ↔ p = [] := by
  cases p with
  | nil => simp [lengthOfPattern]
  | cons k rest =>
    refine iff_of_false (fun hzero => ?_) (List.cons_ne_nil k rest)
    have hbit := getLsbD_lengthOfPattern (k :: rest) 0
    simp [hzero] at hbit

/-- A shift hands out the first element (R143): no bit is lost at the top, as the pattern fits the mask. -/
theorem lengthOfPattern_shift {k : Kind} {rest : List Kind} (h : rest.length < 4) :
    lengthOfPattern (k :: rest) >>> 1 = lengthOfPattern rest := by
  refine BitVec.eq_of_getLsbD_eq fun i hi => ?_
  rw [BitVec.getLsbD_ushiftRight, getLsbD_lengthOfPattern, getLsbD_lengthOfPattern, List.length_cons]
  exact decide_eq_decide.2 (by omega)

theorem codeOfPattern_shift {k : Kind} {rest : List Kind} (h : rest.length < 4) :
    codeOfPattern (k :: rest) >>> 1 = codeOfPattern rest := by
  refine BitVec.eq_of_getLsbD_eq fun i hi => ?_
  have hfits : rest[i]? = some .dah → i < 3 := fun hdah => (List.getElem?_eq_some_iff.1 hdah).1.trans_le (by omega)
  rw [BitVec.getLsbD_ushiftRight, getLsbD_codeOfPattern, getLsbD_codeOfPattern, Nat.add_comm, List.getElem?_cons_succ]
  exact decide_eq_decide.2 (and_congr_left fun hdah => by have := hfits hdah; omega)

/-- Bit 0 of the code mask is the first tone (R101). -/
theorem toneOf_codeOfPattern {k : Kind} (rest : List Kind) (hk : isTone k = true) :
    toneOf (codeOfPattern (k :: rest)) = k := by
  have hbit : (codeOfPattern (k :: rest)).getLsbD 0 = decide (k = .dah) := by
    rw [getLsbD_codeOfPattern]
    simp
  rw [toneOf, hbit]
  rcases isTone_cases hk with rfl | rfl <;> rfl

/-- Shifting a pattern's masks out gives the pattern back (R103, R143). -/
theorem toneList_pattern {n : Nat} {p : List Kind} (htones : ∀ k ∈ p, isTone k = true) (hn : p.length ≤ n)
    (hp : p.length ≤ 4) : toneList n (lengthOfPattern p) (codeOfPattern p) = p := by
  induction p generalizing n with
  | nil => cases n <;> simp [toneList, lengthOfPattern]
  | cons k rest ih =>
    obtain ⟨htone, hrest⟩ := List.forall_mem_cons.1 htones
    obtain ⟨m, rfl⟩ : ∃ m, n = m + 1 := Nat.exists_eq_succ_of_ne_zero (by rw [List.length_cons] at hn; omega)
    simp only [List.length_cons] at hn hp
    have hne : lengthOfPattern (k :: rest) ≠ 0 := mt (lengthOfPattern_eq_zero_iff _).1 (List.cons_ne_nil k rest)
    rw [toneList, if_neg hne, toneOf_codeOfPattern rest htone, lengthOfPattern_shift (by omega),
      codeOfPattern_shift (by omega), ih hrest (by omega) (by omega)]

/-! ### the word of a pattern -/

@[simp] theorem patternWord_nil : patternWord [] = none := rfl

theorem patternWord_of_fits {p : List Kind} (hne : p ≠ []) (hp : p.length ≤ 4) :
    patternWord p = some (mkWord (codeOfPattern p) (lengthOfPattern p)) :=
  if_pos ⟨List.length_pos_iff.2 hne, hp⟩

theorem patternWord_of_long {p : List Kind} (hp : 4 < p.length) : patternWord p = none := if_neg (by omega)

/-- A pattern's word plays the pattern and one letter gap (R103, R111). -/
theorem expandWord_pattern {p : List Kind} (htones : ∀ k ∈ p, isTone k = true) (hne : p ≠ []) (hp : p.length ≤ 4) :
    expandWord (mkWord (codeOfPattern p) (lengthOfPattern p)) = p ++ [.lgap] := by
  have hlen := mt (lengthOfPattern_eq_zero_iff p).1 hne
  rw [expandWord, lengthMask_mkWord, codeMask_mkWord, if_neg hlen, toneList_pattern htones hp hp]

/-! ### cutting a program -/

theorem toneOfChar_patternChar {k : Kind} (hk : isTone k = true) : toneOfChar (patternChar k) = some k := by
  rcases isTone_cases hk with rfl | rfl <;> rfl

theorem toneOfChar_eq_none {ch : Char} (hdot : ch ≠ '.') (hdash : ch ≠ '-') : toneOfChar ch = none := by
  unfold toneOfChar
  split
  · exact absurd rfl hdot
  · exact absurd rfl hdash
  · rfl

/-- A pattern character makes the run longer (R116). -/
theorem assembleFrom_tone {ch : Char} {k : Kind} (h : toneOfChar ch = some k) (run : List Kind) (rest : List Char) :
    assembleFrom run (ch :: rest) = assembleFrom (run ++ [k]) rest := by
  rw [assembleFrom, h]

/-- Any other character ends the run and stands for itself (R113, R116). -/
theorem assembleFrom_other {ch : Char} (h : toneOfChar ch = none) (run : List Kind) (rest : List Char) :
    assembleFrom run (ch :: rest) = (patternWord run).toList ++ (lookup ch).toList ++ assemble rest := by
  rw [assembleFrom, h, assemble]

@[simp] theorem assemble_nil : assemble [] = [] := rfl

theorem assemble_other {ch : Char} (h : toneOfChar ch = none) (rest : List Char) :
    assemble (ch :: rest) = (lookup ch).toList ++ assemble rest := assembleFrom_other h [] rest

/-- A pattern written out is one run, hence one word or none. -/
theorem assembleFrom_pattern {p : List Kind} (htones : ∀ k ∈ p, isTone k = true) (run : List Kind) :
    assembleFrom run (p.map patternChar) = (patternWord (run ++ p)).toList := by
  induction p generalizing run with
  | nil => simp [assembleFrom]
  | cons k rest ih =>
    obtain ⟨htone, hrest⟩ := List.forall_mem_cons.1 htones
    rw [List.map_cons, assembleFrom_tone (toneOfChar_patternChar htone), ih hrest, List.append_assoc,
      List.singleton_append]

theorem assemble_pattern {p : List Kind} (htones : ∀ k ∈ p, isTone k = true) :
    assemble (p.map patternChar) = (patternWord p).toList := assembleFrom_pattern htones []

/-- A run read so far ends where the program goes on with no pattern character. -/
theorem assembleFrom_of_head {p : List Char} (h : ∀ ch ∈ p.head?, toneOfChar ch = none) (run : List Kind) :
    assembleFrom run p = (patternWord run).toList ++ assemble p := by
  cases p with
  | nil => simp [assembleFrom]
  | cons ch rest =>
    have hch : toneOfChar ch = none := h ch rfl
    rw [assembleFrom_other hch, assemble_other hch, List.append_assoc]

/-- At a seam after which no pattern character stands, a program can be cut. -/
theorem assembleFrom_append_of_head {p' : List Char} (h : ∀ ch ∈ p'.head?, toneOfChar ch = none) (p : List Char)
    (run : List Kind) : assembleFrom run (p ++ p') = assembleFrom run p ++ assemble p' := by
  induction p generalizing run with
  | nil => exact assembleFrom_of_head h run
  | cons ch rest ih =>
    rw [List.cons_append]
    cases hch : toneOfChar ch with
    | some k => rw [assembleFrom_tone hch, assembleFrom_tone hch, ih]
    | none =>
      rw [assembleFrom_other hch, assembleFrom_other hch, List.append_assoc _ (assemble rest)]
      exact congrArg _ (ih [])

theorem assemble_append_of_head {p' : List Char} (h : ∀ ch ∈ p'.head?, toneOfChar ch = none) (p : List Char) :
    assemble (p ++ p') = assemble p ++ assemble p' := assembleFrom_append_of_head h p []

/-- At a seam before which no pattern character stands it can be cut too: before that character, and after it. -/
theorem assemble_append_of_last {p : List Char} (h : ∀ ch ∈ p.getLast?, toneOfChar ch = none) (p' : List Char) :
    assemble (p ++ p') = assemble p ++ assemble p' := by
  rcases List.eq_nil_or_concat' p with rfl | ⟨front, ch, rfl⟩
  · rfl
  · have hch : toneOfChar ch = none := h ch (by simp)
    have hhead (rest : List Char) : ∀ c ∈ (ch :: rest).head?, toneOfChar c = none := by simpa using hch
    rw [List.append_assoc, List.singleton_append, assemble_append_of_head (hhead p'),
      assemble_append_of_head (hhead []), assemble_other hch, assemble_other hch, assemble_nil, List.append_nil,
      List.append_assoc]

/-! ### the letter table -/

/-- The letter table gives each letter the word of its pattern, and no such word is reserved (R103, R114). -/
theorem lookup_letter : ∀ row ∈ letterChars,
    lookup row.1 = patternWord row.2 ∧ isReserved (mkWord (codeOfPattern row.2) (lengthOfPattern row.2)) = false ∧
    (∀ k ∈ row.2, isTone k = true) ∧ row.2 ≠ [] ∧ row.2.length ≤ 4 := by
  decide

/-- Only the marked characters have a row (R112, R116). -/
theorem mem_markedChars_of_instrOfChar {ch : Char} {i : Instr} (h : instrOfChar ch = some i) : ch ∈ markedChars := by
  unfold instrOfChar at h
  split at h
  on_goal 29 => cases h
  all_goals decide

theorem lookup_unmarked {ch : Char} (h : ch ∉ markedChars) : lookup ch = none := by
  have hrow : instrOfChar ch = none :=
    Option.eq_none_iff_forall_ne_some.2 fun _ hi => h (mem_markedChars_of_instrOfChar hi)
  rw [lookup, hrow]

end Sys2Proof

open Sys2Proof Sys2Proof.Machine Sys2Proof.Claims

/-- Settles O59: the pattern is one run, and the masks of its word are read bit by bit. -/
theorem writtenPatternsStandForTheirWord : Obligations.WrittenPatternsStandForTheirWord := by
  intro p htones hlen
  have hne : p ≠ [] := List.length_pos_iff.1 hlen
  rw [assemble_pattern htones]
  refine ⟨fun hp => ?_, fun hlong => by rw [patternWord_of_long hlong]; rfl⟩
  refine ⟨mkWord (codeOfPattern p) (lengthOfPattern p), by rw [patternWord_of_fits hne hp]; rfl, ?_, fun k => ?_,
    expandWord_pattern htones hne hp⟩
  · rw [lengthMask_mkWord, lengthOfPattern_eq_lowBits]
  · rw [codeMask_mkWord, getLsbD_codeOfPattern]
    have hfits : p[k]? = some .dah → k < 4 := fun hk => (List.getElem?_eq_some_iff.1 hk).1.trans_le hp
    simpa using hfits

/-- Settles O25: the table row by row, the rest by how a program is cut. -/
theorem letterTableMatchesThePatterns : Obligations.LetterTableMatchesThePatterns := by
  refine ⟨fun row hrow => ?_, rfl, rfl, fun ch => lookup_unmarked, fun ch hdot hdash => ?_, fun p p' hseam => ?_⟩
  · obtain ⟨hlookup, hlegal, htones, hne, hp⟩ := lookup_letter row hrow
    have hword := patternWord_of_fits hne hp
    exact ⟨_, hlookup.trans hword, hlegal, expandWord_pattern htones hne hp,
      by rw [assemble_pattern htones, hword]; rfl⟩
  · rw [assemble_other (toneOfChar_eq_none hdot hdash), assemble_nil, List.append_nil]
  · have hother {ch : Char} (h : ch ≠ '.' ∧ ch ≠ '-') : toneOfChar ch = none := toneOfChar_eq_none h.1 h.2
    rcases hseam with hlast | hhead
    · exact assemble_append_of_last (fun ch hch => hother (hlast ch hch)) p'
    · exact assemble_append_of_head (fun ch hch => hother (hhead ch hch)) p

end

section
/-! The meanings of the letters and rest marks (R114, R116): each means what its word means when popped, and a started
element's whole state (R225, R263 to R265). -/

namespace Sys2Proof.Machine

open Claims

/-! ### the start of an element -/

theorem dur_eq_units (c : Config) (k : Kind) : dur c k = BitVec.ofNat 32 (units k * c.u) := by
  cases k with
  | dit => exact congrArg _ (Nat.one_mul c.u).symm
  | dah | lgap | wgap => rfl

/-- The first entry of the table is 0 (P1), and the table has one. -/
theorem romRead_zero {c : Config} (h : c.WellFormed) : romRead c 0 = some 0 := by
  obtain ⟨-, -, -, -, -, -, hzero, -⟩ := (Config.wellFormed_iff c).1 h
  exact hzero

theorem generate_of_romRead {s : State} {el : Bool} {v : Sample} (h : romRead s.cfg (readIndex el s).val = some v) :
    generate el s = .next (present s (readIndex el s) v) := by
  simp [generate, h]

/-- A boundary tick that starts an element, in full: the sample is `ROM[0] = 0`, tone or not (R225, R263 to R265, P1). -/
theorem startTick_eq {s : State} (h : s.cfg.WellFormed) (k : Kind) : startTick k s = .next (started k s) := by
  have hindex : nextIndex (0 : WaveIndex s.cfg) = 1 := (nextIndex_eq h 0).trans (zero_add 1)
  rw [startTick, generate_of_romRead (v := 0) (romRead_zero h)]
  simp [present, elementStart, started, hindex, dur_eq_units, kindEmits_eq_isTone]

/-! ### pseudo rows -/

/-- A letter or rest mark plays its word, and so does the class row that word decodes to. -/
theorem exec_canonical (i : Instr) (s : State) : exec i s = exec (canonical i) s := by
  cases i with
  | letter1 | letter2 | letter3 | letter4 | restL | restW | reserved2 | reserved4 | reserved5 | reserved6 | reserved8
  | reserved9 | reservedA | reservedB | reservedC | reservedD | reservedE | dit | dah | lgap | wgap | decEmpty | decTones
  | decTrail => rfl
  | _ => exact (exec_decodeWord _ s).symm

/-- The class row of a letter is the row its pattern's word decodes to (R103, R114). -/
theorem canonical_letter : ∀ row ∈ letters,
    canonical row.1 = decodeWord (mkWord (codeOfPattern row.2) (lengthOfPattern row.2)) ∧
    (∀ k ∈ row.2, isTone k = true) ∧ row.2.length ≤ 4 := by
  decide

/-- The word of a pattern starts its first tone, and the decoder holds the masks of the others (R103, R146). -/
theorem wordTick_pattern {s : State} (h : s.cfg.WellFormed) {k : Kind} {ks : List Kind} (hk : isTone k = true)
    (hfits : ks.length < 4) :
    wordTick (mkWord (codeOfPattern (k :: ks)) (lengthOfPattern (k :: ks))) s = .next (started k { s with
      symLen := lowBits ks.length, symCode := codeOf ks, decState := if ks = [] then .trail else .tones }) := by
  have hlen : lengthOfPattern (k :: ks) ≠ 0 := mt (lengthOfPattern_eq_zero_iff _).1 (List.cons_ne_nil k ks)
  rw [wordTick_eq, lengthMask_mkWord, codeMask_mkWord, if_neg hlen, toneTick, toneOf_codeOfPattern ks hk,
    startTick_eq (s := shiftMasks _ _ s) h, shiftMasks, lengthOfPattern_shift hfits, codeOfPattern_shift hfits,
    ← lengthOfPattern_eq_lowBits, ← codeOfPattern_eq_codeOf]
  simp only [lengthOfPattern_eq_zero_iff]

end Sys2Proof.Machine

open Sys2Proof Sys2Proof.Machine Sys2Proof.Claims

/-- Settles O19: the class row is the row the pseudo row's word decodes to. -/
theorem pseudoRowsMeanTheirClassRow : Obligations.PseudoRowsMeanTheirClassRow := exec_canonical

/-- Settles O13: a letter plays its pattern's word. -/
theorem lettersStartTheirPattern : Obligations.LettersStartTheirPattern := by
  intro row hrow k ks hpattern s h
  obtain ⟨hcanonical, htones, hfits⟩ := canonical_letter row hrow
  rw [hpattern] at hcanonical htones hfits
  rw [exec_canonical, hcanonical, exec_decodeWord]
  exact wordTick_pattern h (htones k List.mem_cons_self) hfits

/-- Settles O14: the length mask is 0 and bit 0 of the code mask chooses the gap (R106). -/
theorem restMarksStartOneGap : Obligations.RestMarksStartOneGap :=
  fun _ h => ⟨startTick_eq h .wgap, startTick_eq h .lgap⟩

end

section
/-! The element stream (R111, R149): the decoder hands out the elements of the word in hand, one by one, so that what is
played and what is pending are together what was pushed. -/

namespace Sys2Proof.Machine

/-! ### shifting masks out -/

theorem toneList_succ_eq (n : Nat) (len code : Mask) :
    toneList (n + 1) len code = if len = 0 then [] else toneOf code :: toneList n (len >>> 1) (code >>> 1) := rfl

/-- Once the length mask is clear, more shifts hand out nothing: `n` shifts clear a mask below `2^n` (R143). -/
theorem toneList_succ {n : Nat} {len : Mask} (h : len.toNat < 2 ^ n) (code : Mask) :
    toneList (n + 1) len code = toneList n len code := by
  induction n generalizing len code with
  | zero =>
    have hzero : len = 0 := BitVec.eq_of_toNat_eq (by simpa using h)
    simp [toneList, hzero]
  | succ n ih =>
    have hshift : (len >>> 1).toNat < 2 ^ n := by
      rw [BitVec.toNat_ushiftRight, Nat.shiftRight_eq_div_pow]
      omega
    rw [toneList_succ_eq (n + 1), ih hshift, toneList_succ_eq n]

@[simp] theorem toneList_zero_mask (n : Nat) (code : Mask) : toneList n 0 code = [] := by cases n <;> simp [toneList]

/-- The tones of a mask that is not clear: bit 0's, then those of the shifted masks (R143). -/
theorem toneList_of_ne_zero {len : Mask} (h : len ≠ 0) (code : Mask) :
    toneList 4 len code = toneOf code :: toneList 4 (len >>> 1) (code >>> 1) := by
  have hshift : (len >>> 1).toNat < 2 ^ 3 := by
    rw [BitVec.toNat_ushiftRight, Nat.shiftRight_eq_div_pow]
    omega
  rw [toneList_succ hshift, toneList, if_neg h]

/-! ### the word in hand -/

/-- The elements still to be played of the word the next boundary tick serves: what is left of the word held, or the whole
head word, which an EMPTY decoder pops (R142). -/
def elementsInHand (s : State) : List Kind :=
  if s.decState = .empty then (s.q.head?.toList).flatMap expandWord else heldElements s

theorem heldElements_empty {s : State} (h : s.decState = .empty) : heldElements s = [] := by simp [heldElements, h]

theorem heldElements_tones {s : State} (h : s.decState = .tones) :
    heldElements s = toneList 4 s.symLen s.symCode ++ [.lgap] := by simp [heldElements, h]

theorem heldElements_trail {s : State} (h : s.decState = .trail) : heldElements s = [.lgap] := by
  simp [heldElements, h]

/-- After a tone the decoder owes the tones of the shifted masks and the closing gap, in TONES and in TRAIL (R143). -/
theorem heldElements_shiftMasks (len code : Mask) (s : State) :
    heldElements (shiftMasks len code s) = toneList 4 (len >>> 1) (code >>> 1) ++ [.lgap] := by
  by_cases hlast : len >>> 1 = 0
  · rw [heldElements_trail (if_pos hlast), hlast, toneList_zero_mask, List.nil_append]
  · exact heldElements_tones (if_neg hlast)

theorem expandWord_rest {w : Word} (h : lengthMask w = 0) : expandWord w = [restOf (codeMask w)] := if_pos h

theorem expandWord_letter {w : Word} (h : lengthMask w ≠ 0) :
    expandWord w = toneOf (codeMask w) :: (toneList 4 (lengthMask w >>> 1) (codeMask w >>> 1) ++ [.lgap]) := by
  rw [expandWord, if_neg h, toneList_of_ne_zero h, List.cons_append]

/-- The decoder answers with the first element in hand and holds the others (R142 to R147). The premise is R50 (c). -/
theorem nextElement_inHand {s e : State} {o : Option Kind} (htones : s.decState = .tones → s.symLen ≠ 0)
    (h : nextElement s = (o, e)) : o = (elementsInHand s).head? ∧ heldElements e = (elementsInHand s).tail := by
  rcases nextElement_cases s with
    ⟨hd, he⟩ | ⟨hd, he⟩ | ⟨hd, hq, he⟩ | ⟨w, ws, hd, hq, hl, he⟩ | ⟨w, ws, hd, hq, hl, he⟩ <;>
    cases he.symm.trans h
  · simp [elementsInHand, hd, heldElements_tones hd, toneList_of_ne_zero (htones hd), heldElements_shiftMasks]
  · simp [elementsInHand, hd, heldElements_trail hd, heldElements_empty (closeLetter_decState s)]
  · simp [elementsInHand, hd, hq, heldElements_empty]
  · simp [elementsInHand, hd, hq, expandWord_rest hl, heldElements_empty]
  · simp [elementsInHand, hd, hq, expandWord_letter hl, heldElements_shiftMasks]

/-! ### conservation -/

/-! What is pending is read off the decoder's registers and the queue; the counter, the table and the schedule have no
part in it. -/

@[simp] theorem pendingElements_dropTurn (s : State) : pendingElements (dropTurn s) = pendingElements s := rfl
@[simp] theorem pendingElements_endTone (s : State) : pendingElements (endTone s) = pendingElements s := rfl
@[simp] theorem pendingElements_hold (s : State) : pendingElements (hold s) = pendingElements s := rfl
@[simp] theorem pendingElements_elementStart (k : Kind) (s : State) :
    pendingElements (elementStart k s) = pendingElements s := rfl
@[simp] theorem pendingElements_idlePoll (s : State) : pendingElements (idlePoll s) = pendingElements s := rfl
@[simp] theorem pendingElements_present (s : State) (idx : WaveIndex s.cfg) (v : Sample) :
    pendingElements (present s idx v) = pendingElements s := rfl
@[simp] theorem pendingElements_quietCycle (s : State) : pendingElements (quietCycle s) = pendingElements s := rfl

theorem heldElements_producerTurn (s : State) : heldElements (producerTurn s) = heldElements s := by
  rcases producerTurn_cases s with ⟨-, he⟩ | ⟨_, _, -, -, he⟩ | ⟨_, _, -, -, he⟩ <;> rw [he]
  rfl

/-- A push turn puts the pushed word's elements behind all others (R172). -/
theorem pendingElements_push {s : State} (h : nextTurn s = .push) : pendingElements (producerTurn (dropTurn s)) =
    pendingElements s ++ (pushedNow s).toList.flatMap expandWord := by
  rw [pendingElements, (producerTurn_pushes h).1, heldElements_producerTurn, List.flatMap_append, ← List.append_assoc]
  rfl

/-- All that is pending: what is in hand, and the queue behind it. -/
theorem pendingElements_eq_inHand {s e : State} {o : Option Kind} (h : nextElement s = (o, e)) :
    pendingElements s = elementsInHand s ++ e.q.flatMap expandWord := by
  have hpop := nextElement_pops h
  unfold pendingElements elementsInHand
  split_ifs with hd
  · rw [if_pos hd] at hpop
    rw [heldElements_empty hd, List.nil_append, ← List.flatMap_append, hpop]
  · rw [if_neg hd] at hpop
    rw [← hpop, Option.toList_none, List.nil_append]

/-- The decoder's answer is taken off what is pending, and nothing else is. -/
theorem nextElement_conserves {s e : State} {o : Option Kind} (htones : s.decState = .tones → s.symLen ≠ 0)
    (h : nextElement s = (o, e)) : o.toList ++ pendingElements e = pendingElements s := by
  obtain ⟨rfl, hheld⟩ := nextElement_inHand htones h
  rw [pendingElements_eq_inHand h, pendingElements, hheld, ← List.append_assoc]
  cases elementsInHand s <;> rfl

theorem startedNow_of_not_boundary {s : State} (h : atBoundary s = false) : startedNow s = none := by
  simp [startedNow, h]

/-- A boundary tick starts the first element in hand. -/
theorem startedNow_of_boundary {s : State} (htones : s.decState = .tones → s.symLen ≠ 0) (h : atBoundary s = true) :
    startedNow s = (elementsInHand s).head? := by
  rw [startedNow, if_pos h]
  exact (nextElement_inHand htones rfl).1

/-- A tick plays the first pending element on a boundary, and none off it. -/
theorem tick_conserves {s s' : State} (hinv : Inv s) (hturn : nextTurn s = .tick) (h : tick (dropTurn s) = .next s') :
    (startedNow s).toList ++ pendingElements s' = pendingElements s := by
  have offBoundary (hb : branch s ≠ .boundary) : startedNow s = none :=
    startedNow_of_not_boundary (atBoundary_eq_false_of_branch hb)
  have onBoundary (hb : branch s = .boundary) {o : Option Kind} {e : State} (he : nextElement (dropTurn s) = (o, e)) :
      (startedNow s).toList ++ pendingElements e = pendingElements s := by
    have hfirst : o = (elementsInHand s).head? := (nextElement_inHand (s := dropTurn s) hinv.tones he).1
    rw [startedNow_of_boundary hinv.tones (atBoundary_iff.2 ⟨hturn, hb⟩), ← hfirst]
    exact nextElement_conserves (s := dropTurn s) hinv.tones he
  rcases tick_cases h with ⟨hb, v, -, rfl⟩ | ⟨hb, v, -, rfl⟩ | ⟨hb, k, e, v, he, -, rfl⟩ | ⟨hb, e, v, he, -, rfl⟩ <;>
    rw [branch_dropTurn] at hb
  · simp [offBoundary (by simp [hb])]
  · simp [offBoundary (by simp [hb])]
  · simpa using onBoundary hb he
  · simpa using onBoundary hb he

/-- A step other than reset plays from the front of what is pending and adds the word pushed at its end (R111). -/
theorem step_conserves {s s' : State} (hinv : Inv s) (h : step s = .next s')
    (hrun : (nextTurn s).keepsRunning = true) :
    (startedNow s).toList ++ pendingElements s' = pendingElements s ++ (pushedNow s).toList.flatMap expandWord := by
  obtain ⟨-, ⟨hturn, htick⟩ | ⟨hturn, rfl⟩ | ⟨hturn, rfl⟩ | ⟨a, b, hturn, rfl⟩⟩ := step_cases h
  · rw [pushedNow_of_not_push (by simp [hturn])]
    simpa using tick_conserves hinv hturn htick
  · rw [startedNow_of_not_boundary (atBoundary_eq_false_of_turn (by simp [hturn]))]
    exact pendingElements_push hturn
  · rw [pushedNow_of_not_push (by simp [hturn]),
      startedNow_of_not_boundary (atBoundary_eq_false_of_turn (by simp [hturn]))]
    exact (List.append_nil _).symm
  · exact absurd hrun (by simp [hturn, Turn.keepsRunning])

theorem runFor_conserves {n : Nat} {s s' : State} (hinv : Inv s)
    (hturns : ∀ turn ∈ s.turns, turn.keepsRunning = true) (hrun : runFor n s = .next s') :
    overRun startedNow n s ++ pendingElements s' =
      pendingElements s ++ (overRun pushedNow n s).flatMap expandWord := by
  induction n generalizing s with
  | zero =>
    obtain rfl : s = s' := by simpa using hrun
    simp
  | succ n ih =>
    obtain ⟨s₁, hfirst, hrest⟩ := runFor_succ hrun
    have hstep := step_conserves hinv hfirst (nextTurn_keepsRunning hturns)
    have hrun := ih (hinv.step hfirst).1 (step_turns hfirst ▸ turns_tail_forall hturns) hrest
    rw [overRun_succ startedNow hfirst, overRun_succ pushedNow hfirst, List.append_assoc, hrun, ← List.append_assoc,
      hstep, List.append_assoc, List.flatMap_append]

end Sys2Proof.Machine

open Sys2Proof Sys2Proof.Machine

/-- Settles O49, by induction on the number of steps: each plays from the front of what is pending and pushes at its
end. -/
theorem pendingElementsAreConserved : Obligations.PendingElementsAreConserved :=
  fun _ _ _ hinv hturns hrun => runFor_conserves hinv hturns hrun

end

section
/-! Words that play alike (R107, R111): two states whose words have the same expansions step alike, whatever their
unexamined bits. -/

namespace Sys2Proof.Machine

open Claims

/-! ### states that look alike -/

/-- The two states differ in the words and in nothing else. -/
theorem exists_words_of_looksAlike {a b : State} (h : looksAlike a b) : ∃ q ring len code words,
    b = { a with q := q, ring := ring, symLen := len, symCode := code, toPush := words } :=
  ⟨_, _, _, _, _, h.1⟩

theorem looksAlike_dropTurn {a b : State} (h : looksAlike a b) : looksAlike (dropTurn a) (dropTurn b) :=
  ⟨congrArg dropTurn h.1, h.2⟩

theorem looksAlike_quietCycle {a b : State} (h : looksAlike a b) : looksAlike (quietCycle a) (quietCycle b) :=
  ⟨congrArg quietCycle h.1, h.2⟩

theorem looksAlike_endTone {a b : State} (h : looksAlike a b) : looksAlike (endTone a) (endTone b) :=
  ⟨congrArg endTone h.1, h.2⟩

theorem looksAlike_hold {a b : State} (h : looksAlike a b) : looksAlike (hold a) (hold b) :=
  ⟨congrArg hold h.1, h.2⟩

theorem looksAlike_elementStart {a b : State} (h : looksAlike a b) (k : Kind) :
    looksAlike (elementStart k a) (elementStart k b) :=
  ⟨congrArg (elementStart k) h.1, h.2⟩

theorem looksAlike_idlePoll {a b : State} (h : looksAlike a b) : looksAlike (idlePoll a) (idlePoll b) :=
  ⟨congrArg idlePoll h.1, h.2⟩

/-- Reset empties the queue and the decoder; what is still to push plays alike as before (R320). -/
theorem looksAlike_resetAll {a b : State} (h : looksAlike a b) : looksAlike (resetAll a) (resetAll b) := by
  obtain ⟨hb, -, hwords, -⟩ := h
  exact ⟨congrArg resetAll hb, .nil, hwords, rfl⟩

/-- The rest of a tick reads the build, the emit window and the index only (R264 to R266). -/
theorem looksAlike_generate {a b a' : State} {el : Bool} (h : looksAlike a b) (ha : generate el a = .next a') :
    ∃ b', generate el b = .next b' ∧ looksAlike a' b' := by
  obtain ⟨q, ring, len, code, words, rfl⟩ := exists_words_of_looksAlike h
  obtain ⟨v, hv, rfl⟩ := generate_next ha
  exact ⟨_, generate_of_romRead hv, rfl, h.2⟩

/-! ### the producer -/

theorem producerTurn_nil {s : State} (h : s.toPush = []) : producerTurn s = s := by simp [producerTurn, h]

theorem producerTurn_cons {s : State} {w : Word} {ws : List Word} (h : s.toPush = w :: ws) :
    producerTurn s = if s.q.length < s.cfg.depth then { fifoPush w s with toPush := ws } else s := by
  simp [producerTurn, h, wrReady]

/-- Queues that play alike are equally full, so both producers push, or neither does (R173). -/
theorem looksAlike_producerTurn {a b : State} (h : looksAlike a b) :
    looksAlike (producerTurn a) (producerTurn b) := by
  obtain ⟨q, ring, len, code, words, rfl⟩ := exists_words_of_looksAlike h
  obtain ⟨-, hq, hwords, hheld⟩ := h
  cases hpush : a.toPush with
  | nil =>
    rw [hpush] at hwords
    cases hwords
    rw [producerTurn_nil hpush, producerTurn_nil rfl]
    exact ⟨rfl, hq, by simp [hpush], hheld⟩
  | cons w ws =>
    rw [hpush] at hwords
    obtain _ | ⟨hword, hrest⟩ := hwords
    have hlen : a.q.length = q.length := hq.length_eq
    rw [producerTurn_cons hpush, producerTurn_cons rfl, ← hlen]
    split_ifs with hroom
    · exact ⟨rfl, List.rel_append hq (.cons hword .nil), hrest, hheld⟩
    · exact ⟨rfl, hq, hpush ▸ .cons hword hrest, hheld⟩

/-! ### the decoder -/

theorem expand_head_eq {p q : List Word} (h : List.Forall₂ playsAlike p q) :
    p.head?.toList.flatMap expandWord = q.head?.toList.flatMap expandWord := by
  cases h with
  | nil => rfl
  | cons hword _ => exact congrArg (· ++ []) hword

/-- What is in hand plays alike: the letter held, or the head word of an EMPTY decoder. -/
theorem looksAlike_inHand {a b : State} (h : looksAlike a b) : elementsInHand b = elementsInHand a := by
  obtain ⟨hb, hq, -, hheld⟩ := h
  have hdec : b.decState = a.decState := by rw [hb]
  rw [elementsInHand, elementsInHand, hdec, hheld, expand_head_eq hq]

theorem nextElement_queue_eq {s e : State} {o : Option Kind} (h : nextElement s = (o, e)) :
    e.q = if s.decState = .empty then s.q.tail else s.q := by
  have hpop := nextElement_pops h
  split_ifs at hpop ⊢
  · cases hq : s.q with
    | nil => simpa [hq] using hpop
    | cons w ws => simpa [hq] using hpop
  · simpa using hpop

/-- The decoder's state as it shows in what the decoder owes: nothing in EMPTY, one gap in TRAIL, at least a tone and the
gap in TONES (R143, R148). -/
def decStateOwing (owed : List Kind) : DecState :=
  match owed with
  | [] => .empty
  | [_] => .trail
  | _ :: _ :: _ => .tones

theorem Inv.decState_eq {s : State} (h : Inv s) : s.decState = decStateOwing (heldElements s) := by
  cases hd : s.decState with
  | empty => rw [heldElements_empty hd, decStateOwing]
  | trail => rw [heldElements_trail hd, decStateOwing]
  | tones =>
    rw [heldElements_tones hd, toneList_of_ne_zero (h.tones hd)]
    cases toneList 4 (s.symLen >>> 1) (s.symCode >>> 1) <;> rfl

/-- Alike before, both decoders answer alike and are alike after (R142 to R147). -/
theorem looksAlike_nextElement {a b ea eb : State} {oa ob : Option Kind} (hinva : Inv a) (hinvb : Inv b)
    (h : looksAlike a b) (ha : nextElement a = (oa, ea)) (hb : nextElement b = (ob, eb)) :
    oa = ob ∧ looksAlike ea eb := by
  obtain ⟨hoa, hhelda⟩ := nextElement_inHand hinva.tones ha
  obtain ⟨hob, hheldb⟩ := nextElement_inHand hinvb.tones hb
  rw [looksAlike_inHand h] at hob hheldb
  have hheld : heldElements ea = heldElements eb := hhelda.trans hheldb.symm
  have hdec : ea.decState = eb.decState := by
    rw [(hinva.nextElement ha).decState_eq, (hinvb.nextElement hb).decState_eq, hheld]
  have hqa := nextElement_queue_eq ha
  have hqb := nextElement_queue_eq hb
  obtain ⟨hframea, -⟩ := nextElement_frame ha
  obtain ⟨hframeb, -⟩ := nextElement_frame hb
  obtain ⟨q, ring, len, code, words, rfl⟩ := exists_words_of_looksAlike h
  obtain ⟨-, hq, hwords, -⟩ := h
  refine ⟨hoa.trans hob.symm, ?_, ?_, ?_, hheld⟩
  · rw [hframea, hframeb, ← hdec]
  · rw [hqa, hqb]
    split_ifs
    · simpa only [List.drop_one] using List.forall₂_drop 1 hq
    · exact hq
  · rw [hframea, hframeb]
    exact hwords

/-! ### ticks, steps and runs -/

theorem looksAlike_branch {a b : State} (h : looksAlike a b) : branch b = branch a := by
  rw [h.1]
  rfl

theorem looksAlike_tick {a b a' : State} (hinva : Inv a) (hinvb : Inv b) (h : looksAlike a b) (ha : tick a = .next a') :
    ∃ b', tick b = .next b' ∧ looksAlike a' b' := by
  unfold tick at ha ⊢
  rw [looksAlike_branch h]
  split at ha
  · exact looksAlike_generate (looksAlike_endTone h) ha
  · exact looksAlike_generate (looksAlike_hold h) ha
  · rw [exec_fetch] at ha ⊢
    rcases hna : nextElement a with ⟨oa, ea⟩
    rcases hnb : nextElement b with ⟨ob, eb⟩
    obtain ⟨rfl, he⟩ := looksAlike_nextElement hinva hinvb h hna hnb
    rw [hna] at ha
    cases oa with
    | none => exact looksAlike_generate (looksAlike_idlePoll he) ha
    | some k => exact looksAlike_generate (looksAlike_elementStart he k) ha

theorem step_eq_takeTurn {s : State} (h : s.cfg.WellFormed) : step s = takeTurn (nextTurn s) (dropTurn s) := if_pos h

theorem looksAlike_step {a b a' : State} (hinva : Inv a) (hinvb : Inv b) (h : looksAlike a b) (ha : step a = .next a') :
    ∃ b', step b = .next b' ∧ looksAlike a' b' := by
  have hturn : nextTurn b = nextTurn a := by rw [h.1]; rfl
  have hdrop := looksAlike_dropTurn h
  rw [step_eq_takeTurn hinvb.build, hturn]
  obtain ⟨-, ⟨ht, htick⟩ | ⟨ht, rfl⟩ | ⟨ht, rfl⟩ | ⟨_, _, ht, rfl⟩⟩ := step_cases ha <;> rw [ht]
  · exact looksAlike_tick hinva.dropTurn hinvb.dropTurn hdrop htick
  · exact ⟨_, rfl, looksAlike_producerTurn hdrop⟩
  · exact ⟨_, rfl, looksAlike_quietCycle hdrop⟩
  · exact ⟨_, rfl, looksAlike_resetAll hdrop⟩

theorem looksAlike_runFor {n : Nat} {a b a' : State} (hinva : Inv a) (hinvb : Inv b) (h : looksAlike a b)
    (ha : runFor n a = .next a') : ∃ b', runFor n b = .next b' ∧ looksAlike a' b' := by
  induction n generalizing a b with
  | zero =>
    obtain rfl : a = a' := by simpa using ha
    exact ⟨b, rfl, h⟩
  | succ n ih =>
    obtain ⟨a₁, hfirst, hrest⟩ := runFor_succ ha
    obtain ⟨b₁, hfirstb, h₁⟩ := looksAlike_step hinva hinvb h hfirst
    rw [runFor_succ_of_next hfirstb]
    exact ih (hinva.step hfirst).1 (hinvb.step hfirstb).1 h₁ hrest

end Sys2Proof.Machine

open Sys2Proof Sys2Proof.Machine Sys2Proof.Claims

/-- Settles O51, by induction on the number of steps: alike states step alike, and show the same outputs. -/
theorem outputDependsOnWordsOnlyThroughExpansion : Obligations.OutputDependsOnWordsOnlyThroughExpansion := by
  intro n a b a' hinva hinvb h ha
  obtain ⟨b', hb, halike⟩ := looksAlike_runFor hinva hinvb h ha
  refine ⟨b', hb, halike, ?_⟩
  obtain ⟨q, ring, len, code, words, rfl⟩ := exists_words_of_looksAlike halike
  exact ⟨rfl, rfl, rfl, rfl, rfl, rfl, rfl⟩

end

section
/-! NEXT_ELEMENT, state by state (R142 to R147): an equation for each of the decoder's answers. -/

namespace Sys2Proof.Machine

open Claims

/-! ### the answers -/

theorem nextElement_tones {s : State} (h : s.decState = .tones) :
    nextElement s = (some (toneOf s.symCode), shiftMasks s.symLen s.symCode s) := by simp [nextElement, h]

theorem nextElement_trail {s : State} (h : s.decState = .trail) : nextElement s = (some .lgap, closeLetter s) := by
  simp [nextElement, h]

theorem nextElement_nil {s : State} (h : s.decState = .empty) (hq : s.q = []) : nextElement s = (none, s) := by
  simp [nextElement, h, fifoTryPop_nil hq]

theorem nextElement_cons {s : State} {w : Word} {ws : List Word} (h : s.decState = .empty) (hq : s.q = w :: ws) :
    nextElement s = (some (openWord w (fifoDrop s)).1, (openWord w (fifoDrop s)).2) := by
  simp [nextElement, h, fifoTryPop_cons hq]

/-! ### the statements' words for them -/

/-- `code_mask[0]` is bit 4 of the word (R100). -/
theorem codeMask_bit_zero (w : Word) : (codeMask w).getLsbD 0 = w.getLsbD 4 := getLsbD_codeMask w (by decide)

theorem restOf_codeMask (w : Word) : restOf (codeMask w) = if w.getLsbD 4 then .wgap else .lgap := by
  rw [restOf, codeMask_bit_zero]

theorem toneOf_codeMask (w : Word) : toneOf (codeMask w) = toneBit (w.getLsbD 4) := by
  rw [toneOf, codeMask_bit_zero, toneBit]

theorem shiftMasks_eq_loaded (len code : Mask) (s : State) :
    shiftMasks len code s = loaded len code (if len >>> 1 = 0 then .trail else .tones) s := rfl

theorem fifoDrop_eq_popped (s : State) : fifoDrop s = popped s := rfl

/-- A logical shift: 0 enters at the top bit (R143). -/
theorem getLsbD_top_ushiftRight (m : Mask) : (m >>> 1).getLsbD 3 = false := by
  rw [BitVec.getLsbD_ushiftRight, BitVec.getLsbD_of_ge m _ (by decide)]

/-- `W` shifts leave no bit of a mask (R143). -/
theorem ushiftRight_four_times (m : Mask) : m >>> 1 >>> 1 >>> 1 >>> 1 = 0 := by
  refine BitVec.eq_of_getLsbD_eq fun k _ => ?_
  simp only [BitVec.getLsbD_ushiftRight]
  rw [BitVec.getLsbD_of_ge m _ (by omega)]
  exact BitVec.getLsbD_zero.symm

end Sys2Proof.Machine

open Sys2Proof Sys2Proof.Machine Sys2Proof.Claims

/-- Settles O6, case by case of R142's dispatch. -/
theorem nextElementHandsOutWhatTheDecoderHolds : Obligations.NextElementHandsOutWhatTheDecoderHolds := by
  refine ⟨fun s htones => ?_, fun s htrail => ?_, fun s hempty hq => ?_, fun s w ws hempty hq hrest => ?_,
    fun s w ws hempty hq hletter => ?_⟩
  · exact nextElement_tones htones
  · exact nextElement_trail htrail
  · exact nextElement_nil hempty hq
  · rw [nextElement_cons hempty hq, openWord_rest hrest, restOf_codeMask, fifoDrop_eq_popped]
  · rw [nextElement_cons hempty hq, openWord_letter hletter, toneOf_codeMask, shiftMasks_eq_loaded, fifoDrop_eq_popped]
    rfl

/-- Settles O57: the answer in TONES is the definition's first case; the shift is logical. -/
theorem tonesHandsOutTheNextTone : Obligations.TonesHandsOutTheNextTone :=
  ⟨fun _ htones => nextElement_tones htones, getLsbD_top_ushiftRight, ushiftRight_four_times⟩

end

section
/-! The rows of the symbol words and of the decoder's states, in full (R143 to R147, R150, R225, R226): a word row or a
held letter starts one element; an EMPTY decoder with no word idles. -/

namespace Sys2Proof.Machine

open Claims

/-! ### the ticks they are made of -/

/-- The boundary tick of a letter's tone: the tone of bit 0 starts, and the masks are held shifted (R143, R146). -/
theorem toneTick_eq {s : State} (h : s.cfg.WellFormed) (len code : Mask) :
    toneTick len code s = .next (started (toneBit (code.getLsbD 0))
      (loaded len code (if len >>> 1 = 0 then .trail else .tones) s)) :=
  startTick_eq (s := shiftMasks len code s) h (toneOf code)

theorem toneTick_last {s : State} (h : s.cfg.WellFormed) {len : Mask} (hlast : len >>> 1 = 0) (code : Mask) :
    toneTick len code s = .next (started (toneBit (code.getLsbD 0)) (loaded len code .trail s)) := by
  rw [toneTick_eq h, if_pos hlast]

theorem toneTick_more {s : State} (h : s.cfg.WellFormed) {len : Mask} (hmore : len >>> 1 ≠ 0) (code : Mask) :
    toneTick len code s = .next (started (toneBit (code.getLsbD 0)) (loaded len code .tones s)) := by
  rw [toneTick_eq h, if_neg hmore]

theorem restTick_eq {s : State} (h : s.cfg.WellFormed) (code : Mask) :
    restTick code s = .next (started (restOf code) s) := startTick_eq h (restOf code)

/-- The table has an entry at every wave index (R75, R200). -/
theorem exists_romRead {c : Config} (h : c.WellFormed) (idx : WaveIndex c) : ∃ v, romRead c idx.val = some v := by
  obtain ⟨-, -, -, -, -, hlen, -⟩ := (Config.wellFormed_iff c).1 h
  have hidx : idx.val < c.rom.length := hlen ▸ index_lt h idx
  exact ⟨_, List.getElem?_eq_getElem hidx⟩

/-- An idle poll in full: silence, and the index goes on without a clear (R226, R263 to R265). -/
theorem idleTick_eq {s : State} (h : s.cfg.WellFormed) : idleTick s = .next (idled s) := by
  obtain ⟨v, hv⟩ := exists_romRead h s.waveIdx
  have hindex : nextIndex s.waveIdx = s.waveIdx + 1 := nextIndex_eq h s.waveIdx
  rw [idleTick, generate_of_romRead (s := idlePoll s) (el := false) hv]
  simp [present, idlePoll, idled, idleSpan, hindex]

/-- In a well-formed build a tick that starts an element completes. -/
theorem StartsIn.completes {s : State} {o : Outcome} (h : StartsIn s o) (hbuild : s.cfg.WellFormed) :
    ∃ s', o = .next s' := by
  obtain ⟨k, e, rfl, he⟩ := h
  have hcfg : e.cfg = s.cfg := by rw [he]
  exact ⟨_, startTick_eq (hcfg ▸ hbuild) k⟩

/-! ### the rows -/

/-- A RESERVED row is a letter's tick on its own length mask, and every such mask has a bit above bit 0, so that a tone
follows the first (R108, R150). -/
theorem exec_reserved : ∀ row ∈ reservedRows,
    row.2 >>> 1 ≠ 0 ∧ ∀ (code : Mask) (s : State), exec (row.1 code) s = toneTick row.2 code s := by
  intro row hrow
  fin_cases hrow <;> exact ⟨by decide, fun _ _ => rfl⟩

theorem exec_decEmpty_nil {s : State} (hq : s.q = []) : exec .decEmpty s = idleTick s := by
  simp [exec, execDecEmpty, fifoTryPop_nil hq]

theorem exec_decEmpty_cons {s : State} {w : Word} {ws : List Word} (hq : s.q = w :: ws) :
    exec .decEmpty s = wordTick w (fifoDrop s) := by
  simp [exec, execDecEmpty, fifoTryPop_cons hq]

end Sys2Proof.Machine

open Sys2Proof Sys2Proof.Machine Sys2Proof.Claims

/-- Settles O7: only LETTER1's length mask is clear after the shift. -/
theorem letterWordsStartTheirFirstTone : Obligations.LetterWordsStartTheirFirstTone :=
  fun code _ h => ⟨toneTick_last h (by decide) code, toneTick_more h (by decide) code,
    toneTick_more h (by decide) code, toneTick_more h (by decide) code⟩

/-- Settles O8: the class of a well-formed rest word fixes the bit the gap is chosen by. -/
theorem restWordsStartOneGap : Obligations.RestWordsStartOneGap := by
  intro code s h
  refine ⟨fun hwf => ?_, fun hwf => ?_⟩
  · have hbit : code.getLsbD 0 = false := by simpa [Instr.WellFormed, Instr.wellFormed] using hwf
    have hgap : restOf code = .lgap := if_neg (by rw [hbit]; decide)
    exact hgap ▸ restTick_eq h code
  · have hbit : code.getLsbD 0 = true := hwf
    have hgap : restOf code = .wgap := if_pos hbit
    exact hgap ▸ restTick_eq h code

/-- Settles O9: each of the eleven masks still holds a tone after the shift. -/
theorem reservedWordsPlayLikeLetters : Obligations.ReservedWordsPlayLikeLetters := by
  intro row hrow code s h
  obtain ⟨hmore, hexec⟩ := exec_reserved row hrow
  rw [hexec, toneTick_more h hmore]

/-- Settles O11: DEC_TONES is a letter's tick on the held masks, DEC_TRAIL starts a gap with the letter closed. -/
theorem heldLetterGoesOn : Obligations.HeldLetterGoesOn :=
  fun s h => ⟨toneTick_eq h s.symLen s.symCode, startTick_eq (s := closeLetter s) h .lgap⟩

/-- Settles O12: DEC_EMPTY idles, or it is the head word's tick in the state without the word. -/
theorem emptyDecoderIdlesOrOpensAWord : Obligations.EmptyDecoderIdlesOrOpensAWord := by
  refine ⟨fun s h hq => ?_, fun s w ws h hq => ?_⟩
  · rw [exec_decEmpty_nil hq, idleTick_eq h]
  · rw [exec_decEmpty_cons hq]
    refine ⟨(exec_decodeWord w (popped s)).symm, ?_⟩
    have hstarts := wordTick_starts w (fifoDrop s)
    obtain ⟨t, ht⟩ := hstarts.completes h
    have hplays : OnlyPlays (fifoDrop s) t := StartsIn.onlyPlays (ht ▸ hstarts)
    exact ⟨t, ht, by rw [hplays.q, fifoDrop_q, hq, List.tail_cons]⟩

end

section
/-! What a boundary tick runs (R142, R224): the row of the decoder's state, or of the word at the head of the queue. -/

namespace Sys2Proof.Machine

/-! ### the fetch, state by state -/

theorem fetch_tones {s : State} (h : s.decState = .tones) : fetch s = (.decTones, s) := by simp [fetch, h]

theorem fetch_trail {s : State} (h : s.decState = .trail) : fetch s = (.decTrail, s) := by simp [fetch, h]

theorem fetch_nil {s : State} (h : s.decState = .empty) (hq : s.q = []) : fetch s = (.decEmpty, s) := by
  simp [fetch, h, fifoTryPop_nil hq]

theorem fetch_cons {s : State} {w : Word} {ws : List Word} (h : s.decState = .empty) (hq : s.q = w :: ws) :
    fetch s = (decodeWord w, fifoDrop s) := by
  simp [fetch, h, fifoTryPop_cons hq]

/-! ### the boundary tick -/

/-- At the end of the gap rule 1 does not fire, since the gap is not empty (R231). -/
theorem branch_boundary_of_gapEnd {s : State} (h : s.cfg.WellFormed) (ht : s.t = s.nextT + gap s.cfg) :
    branch s = .boundary := by
  have hunit := wellFormed_unit h
  have hgap : gap s.cfg ≠ 0 := fun hzero => by
    have hu : s.cfg.u = 0 := (gap_toNat h).symm.trans (congrArg BitVec.toNat hzero)
    omega
  have hnext : s.t ≠ s.nextT := fun heq => hgap (left_eq_add.1 (heq.symm.trans ht))
  rw [branch_eq, if_neg hnext, if_pos ht]

/-- A boundary tick runs what it fetches. -/
theorem step_boundary {s : State} (h : s.cfg.WellFormed) (hturn : nextTurn s = .tick)
    (ht : s.t = s.nextT + gap s.cfg) : step s = exec (fetch (dropTurn s)).1 (fetch (dropTurn s)).2 := by
  rw [step_eq_takeTurn h, hturn, takeTurn, tick, branch_dropTurn, branch_boundary_of_gapEnd h ht]

/-- With a word at the head of an EMPTY decoder's queue, it runs the word's row after the pop (R142, R175). -/
theorem step_word {s : State} {w : Word} {ws : List Word} (h : s.cfg.WellFormed) (hturn : nextTurn s = .tick)
    (ht : s.t = s.nextT + gap s.cfg) (hempty : s.decState = .empty) (hq : s.q = w :: ws) :
    step s = exec (decodeWord w) (fifoDrop (dropTurn s)) := by
  rw [step_boundary h hturn ht, fetch_cons (s := dropTurn s) hempty hq]

/-- An 8-bit code is placed as the head word of the queue (log entry 14). -/
theorem withFetchWord_toNat (s : State) (w : Word) :
    s.withFetchWord 8 w.toNat = withBoundaryDue (withHeadWord w s) := by
  rw [State.withFetchWord, if_neg (by decide), BitVec.ofNat_toNat, BitVec.setWidth_eq]

end Sys2Proof.Machine

open Sys2Proof Sys2Proof.Machine Sys2Proof.Claims

/-- Settles O17: the second clause is the first at the state with the word placed. -/
theorem stepRunsTheWordAtTheHead : Obligations.StepRunsTheWordAtTheHead := by
  refine ⟨fun s w ws h hturn ht hempty hq => ?_, fun s w h => ?_⟩
  · exact ⟨rfl, (encode_decodeWord w).1, step_word h hturn ht hempty hq⟩
  · rw [withFetchWord_toNat]
    exact step_word (s := withBoundaryDue (withHeadWord w s)) h rfl rfl rfl rfl

/-- Settles O18: the fetch of each of the decoder's other three situations. -/
theorem stepRunsTheHeldLetter : Obligations.StepRunsTheHeldLetter := by
  intro s h hturn ht
  rw [step_boundary h hturn ht]
  refine ⟨fun htones => ?_, fun htrail => ?_, fun hempty hq => ?_⟩
  · rw [fetch_tones (s := dropTurn s) htones]
  · rw [fetch_trail (s := dropTurn s) htrail]
  · rw [fetch_nil (s := dropTurn s) hempty hq]

end

section
/-! A tick that asks no EMPTY decoder reads neither the queue nor the producer (R48, R84, R142). -/

namespace Sys2Proof.Machine

/-- The state with another queue, ring and words to push. -/
def withQueue (queue : List Word) (ring : Ring) (words : List Word) (s : State) : State :=
  { s with q := queue, ring := ring, toPush := words }

section

variable (queue : List Word) (ring : Ring) (words : List Word)

@[simp] theorem branch_withQueue (s : State) : branch (withQueue queue ring words s) = branch s := rfl

/-- The table is read by the build and the index alone (R201, R263). -/
theorem generate_withQueue {s s' : State} {el : Bool} (h : generate el s = .next s') :
    generate el (withQueue queue ring words s) = .next (withQueue queue ring words s') := by
  obtain ⟨v, hv, rfl⟩ := generate_next h
  exact generate_of_romRead (s := withQueue queue ring words s) hv

/-- A decoder that is not EMPTY answers from its own masks (R143, R147). -/
theorem nextElement_withQueue {s : State} (h : s.decState ≠ .empty) :
    nextElement (withQueue queue ring words s) =
      ((nextElement s).1, withQueue queue ring words (nextElement s).2) := by
  cases hd : s.decState with
  | empty => exact absurd hd h
  | tones => rw [nextElement_tones hd, nextElement_tones (s := withQueue queue ring words s) hd]; rfl
  | trail => rw [nextElement_trail hd, nextElement_trail (s := withQueue queue ring words s) hd]; rfl

theorem tick_withQueue {s s' : State} (hblind : branch s ≠ .boundary ∨ s.decState ≠ .empty) (h : tick s = .next s') :
    tick (withQueue queue ring words s) = .next (withQueue queue ring words s') := by
  unfold tick at h ⊢
  rw [branch_withQueue]
  split at h
  · exact generate_withQueue queue ring words h
  · exact generate_withQueue queue ring words h
  · next hb =>
    rw [exec_fetch] at h ⊢
    rw [nextElement_withQueue queue ring words (hblind.resolve_left (absurd hb))]
    rcases hanswer : nextElement s with ⟨_ | k, e⟩ <;> rw [hanswer] at h
    · exact generate_withQueue queue ring words h
    · exact generate_withQueue queue ring words h

end

end Sys2Proof.Machine

open Sys2Proof Sys2Proof.Machine

/-- Settles O50: off the boundary a tick only counts and plays, and on it only an EMPTY decoder asks the queue. -/
theorem onlyAnEmptyDecodersBoundarySeesTheQueue : Obligations.OnlyAnEmptyDecodersBoundarySeesTheQueue := by
  intro s s' queue words ring hturn hblind hstep
  have hbuild := (step_cases hstep).1
  rw [step_eq_takeTurn hbuild, hturn] at hstep
  have hblind : branch (dropTurn s) ≠ .boundary ∨ s.decState ≠ .empty :=
    hblind.imp_left fun hoff hb => by simp [atBoundary_iff.2 ⟨hturn, hb⟩] at hoff
  have hnext : nextTurn (withQueue queue ring words s) = .tick := hturn
  show step (withQueue queue ring words s) = .next (withQueue queue ring words s')
  rw [step_eq_takeTurn (s := withQueue queue ring words s) hbuild, hnext]
  exact tick_withQueue queue ring words (s := dropTurn s) hblind hstep

end

section
/-! The elements of a word and of a run (R111, R149, R150). -/

namespace Sys2Proof.Machine

open Claims

/-- A tone for each place up to the highest set bit of the length mask, holes included: a shift ends the letter only
when nothing is left of the whole mask (R143, R150). -/
theorem toneList_eq_range {n : Nat} {len : Mask} (hne : len ≠ 0) (hlen : len.toNat < 2 ^ n) (code : Mask) :
    toneList n len code = (List.range (len.toNat.log2 + 1)).map fun k => toneBit (code.getLsbD k) := by
  induction n generalizing len code with
  | zero => exact absurd (BitVec.eq_of_toNat_eq (by simpa using hlen)) hne
  | succ n ih =>
    have hhalf : (len >>> 1).toNat = len.toNat / 2 := by
      rw [BitVec.toNat_ushiftRight, Nat.shiftRight_eq_div_pow, pow_one]
    have hbits (k : Nat) : (code >>> 1).getLsbD k = code.getLsbD (k + 1) := by
      rw [BitVec.getLsbD_ushiftRight, Nat.add_comm]
    rw [toneList_succ_eq, if_neg hne, List.range_succ_eq_map, List.map_cons, List.map_map]
    refine congrArg (toneOf code :: ·) ?_
    by_cases hlast : len >>> 1 = 0
    · have hlog : len.toNat.log2 = 0 := by
        have hzero : len.toNat / 2 = 0 := hhalf.symm.trans (congrArg BitVec.toNat hlast)
        rw [Nat.log2_def, if_neg (by omega)]
      rw [hlast, hlog, toneList_zero_mask]
      rfl
    · have hlog : len.toNat.log2 = (len >>> 1).toNat.log2 + 1 := by
        have hpos : (len >>> 1).toNat ≠ 0 := fun hzero => hlast (BitVec.eq_of_toNat_eq hzero)
        rw [hhalf] at hpos ⊢
        rw [Nat.log2_def, if_pos (by omega)]
      rw [ih hlast (by omega), hlog]
      exact List.map_congr_left fun k _ => congrArg toneBit (hbits k)

theorem lengthMask_ne_zero_of_isReserved {w : Word} (h : isReserved w = true) : lengthMask w ≠ 0 := by
  intro hzero
  simp [isReserved, hzero] at h

/-- Over a run from an EMPTY decoder, what is played and what is still held are the expansions of the words popped: all
elements are conserved and all words are, and the queue's part of both accounts is the same (R81, R149). -/
theorem runFor_plays_popped {n : Nat} {s s' : State} (hinv : Inv s) (hempty : s.decState = .empty)
    (hturns : ∀ turn ∈ s.turns, turn.keepsRunning = true) (hrun : runFor n s = .next s') :
    overRun startedNow n s ++ heldElements s' = (overRun poppedNow n s).flatMap expandWord := by
  have helements := runFor_conserves hinv hturns hrun
  obtain ⟨hwords, -⟩ := runFor_pops_pushes hturns hrun
  refine List.append_cancel_right (bs := s'.q.flatMap expandWord) ?_
  calc overRun startedNow n s ++ heldElements s' ++ s'.q.flatMap expandWord
      = overRun startedNow n s ++ pendingElements s' := List.append_assoc ..
    _ = pendingElements s ++ (overRun pushedNow n s).flatMap expandWord := helements
    _ = (s.q ++ overRun pushedNow n s).flatMap expandWord := by
      rw [pendingElements, heldElements_empty hempty, List.nil_append, List.flatMap_append]
    _ = (overRun poppedNow n s).flatMap expandWord ++ s'.q.flatMap expandWord := by
      rw [← hwords, List.flatMap_append]

end Sys2Proof.Machine

open Sys2Proof Sys2Proof.Machine Sys2Proof.Claims

/-- Settles O24: a RESERVED word's length mask is not clear, and the tones of any such mask end at its highest set
bit. -/
theorem reservedWordsExpandToTheHighestSetBit : Obligations.ReservedWordsExpandToTheHighestSetBit := by
  intro w h
  have hne := lengthMask_ne_zero_of_isReserved h
  rw [expandWord, if_neg hne, toneList_eq_range hne (lengthMask w).isLt]
  rfl

/-- Settles O48: the account of the elements less that of the words. -/
theorem elementStreamIsTheEagerExpansion : Obligations.ElementStreamIsTheEagerExpansion :=
  fun _ _ _ hinv hempty hturns hrun => runFor_plays_popped hinv hempty hturns hrun

end

section
/-! The queue's operations (R172 to R176): PUSH with room and without, what a step that pops leaves, and TRY_POP. -/

namespace Sys2Proof.Machine

theorem wrReady_eq_true_iff {s : State} : wrReady false s = true ↔ s.q.length < s.cfg.depth := by simp [wrReady]

theorem wrReady_eq_false_iff {s : State} : wrReady false s = false ↔ s.cfg.depth ≤ s.q.length := by simp [wrReady]

theorem rdEmpty_nil {s : State} (h : s.q = []) : rdEmpty s = true := by simp [rdEmpty, h]

theorem rdEmpty_cons {s : State} {w : Word} {ws : List Word} (h : s.q = w :: ws) : rdEmpty s = false := by
  simp [rdEmpty, h]

theorem rdData_cons {s : State} {w : Word} {ws : List Word} (h : s.q = w :: ws) : rdData s = some w := by
  simp [rdData, h]

/-- With room the first of the producer's words is pushed (R172). -/
theorem producerTurn_push {s : State} {w : Word} {ws : List Word} (h : s.toPush = w :: ws)
    (hroom : s.q.length < s.cfg.depth) : producerTurn s = { fifoPush w s with toPush := ws } :=
  (producerTurn_cons h).trans (if_pos hroom)

/-- Into a full queue nothing is pushed, whatever the producer holds (R173). -/
theorem producerTurn_full {s : State} (hfull : s.cfg.depth ≤ s.q.length) : producerTurn s = s := by
  cases h : s.toPush with
  | nil => exact producerTurn_nil h
  | cons w ws => exact (producerTurn_cons h).trans (if_neg hfull.not_gt)

/-- In a well-formed build a push turn is the producer's turn. -/
theorem step_push {s : State} (h : s.cfg.WellFormed) (hturn : nextTurn s = .push) :
    step s = .next (producerTurn (dropTurn s)) := by
  rw [step_eq_takeTurn h, hturn, takeTurn]

/-- A turn that pops takes the word off the head and pushes none: it is a tick (R142, R180). -/
theorem step_q_of_poppedNow {s s' : State} {w : Word} (hpop : poppedNow s = some w) (h : step s = .next s') :
    s.q = w :: s'.q := by
  have hsome : poppedNow s ≠ none := by simp [hpop]
  obtain ⟨hturn, -⟩ := atBoundary_iff.1 (boundary_of_poppedNow_ne_none hsome).1
  have hnone : pushedNow s = none := pushedNow_of_not_push (by simp [hturn])
  obtain ⟨hq, -⟩ := step_pops_pushes h (by simp [hturn, Turn.keepsRunning])
  simpa [hpop, hnone] using hq.symm

end Sys2Proof.Machine

open Sys2Proof Sys2Proof.Machine Sys2Proof.Claims

/-- Settles O26: the producer's turn with room; of the queue memory the push writes the tail's slot alone. -/
theorem pushAppendsAtTheTail : Obligations.PushAppendsAtTheTail := by
  intro s w ws hbuild hturn hword hroom
  refine ⟨s.ring.mem.write (s.ring.wrPtr % s.cfg.depth) w, ?_, Memory.read_write_same _ _ _,
    fun _ hother => Memory.read_write_other _ _ hother⟩
  rw [step_push hbuild hturn, producerTurn_push (s := dropTurn s) hword hroom]
  rfl

/-- Settles O27: the producer's turn changes nothing with no word or no room; a queue within DEPTH has room once a word
is popped (V12). -/
theorem pushIntoAFullQueueTransfersNothing : Obligations.PushIntoAFullQueueTransfersNothing := by
  refine ⟨fun s => wrReady_eq_false_iff, fun s hbuild hturn hnoPush => ?_, fun s s' hdepth hpop h => ?_⟩
  · have hkept : producerTurn (dropTurn s) = dropTurn s := by
      rcases hnoPush with hnone | hfull
      · exact producerTurn_nil hnone
      · exact producerTurn_full hfull
    rw [step_push hbuild hturn, hkept, dropTurn]
  · obtain ⟨w, hw⟩ := Option.isSome_iff_exists.1 hpop
    have hlen : s'.q.length + 1 = s.q.length := by rw [step_q_of_poppedNow hw h, List.length_cons]
    exact ⟨hlen, wrReady_eq_true_iff.2 (by rw [step_cfg h]; omega)⟩

/-- Settles O28: the two cases of `fifo_try_pop`, with the flags of R176 in each. -/
theorem tryPopTakesTheHeadOrNothing : Obligations.TryPopTakesTheHeadOrNothing := by
  refine ⟨fun s hq => ⟨fifoTryPop_nil hq, rdEmpty_nil hq⟩,
    fun s w ws hq => ⟨?_, rdEmpty_cons hq, rdData_cons hq⟩⟩
  have htail : popped s = { popped s with q := ws } := by simp [popped, hq]
  rw [fifoTryPop_cons hq, fifoDrop_eq_popped, ← htail]

end

section
/-! The build's constants: no step writes the configuration, so neither table ever changes (R78, R204, R207). -/

open Sys2Proof Sys2Proof.Machine Sys2Proof.Claims

/-- Settles O36: every step keeps the configuration, and both tables are read from the configuration alone. -/
theorem noStepTouchesTheBuild : Obligations.NoStepTouchesTheBuild := by
  intro s s' h
  have hcfg : s'.cfg = s.cfg := step_cfg h
  exact ⟨hcfg, fun i => congrArg (romRead · i) hcfg, fun k => congrArg (dur · k) hcfg⟩

end

section
/-! The three branches of a tick, each with its whole next state (R222 to R226, R230, R263 to R266), and the durations
they load (R232). -/

namespace Sys2Proof.Machine

open Claims

/-! ### rule 1 before rule 2 -/

/-- Without a gap rule 1 takes every tick that rule 2 would (R231). -/
theorem branch_ne_boundary_of_no_gap {s : State} (h : s.cfg.u = 0) : branch s ≠ .boundary := by
  intro hb
  have hgap : gap s.cfg = 0 := by rw [gap, h]; rfl
  have hend : s.t = s.nextT := by rw [eq_gapEnd_of_branch_boundary hb, hgap]; exact BitVec.add_zero _
  rw [branch_endTone_iff.2 hend] at hb
  cases hb

theorem ne_gapEnd_of_endTone {s : State} (h : s.cfg.WellFormed) (hend : s.t = s.nextT) :
    s.t ≠ s.nextT + gap s.cfg := by
  intro hgap
  have hb := branch_boundary_of_gapEnd h hgap
  rw [branch_endTone_iff.2 hend] at hb
  cases hb

/-! ### END_TONE and HOLD: the ticks that count on -/

/-- `emit` after a tick that is no boundary tick: END_TONE clears it, HOLD keeps it (R223, R230). -/
def emitsOn (s : State) : Bool := s.emit && !endToneDue s

/-- What END_TONE or HOLD makes of a state in which the table is read as `v`, the turn taken off the schedule. -/
def countedOn (v : Sample) (s : State) : State :=
  { s with
    t := s.t + 1
    emit := emitsOn s
    waveIdx := s.waveIdx + 1
    dacLeft := if emitsOn s then v else 0
    dacRight := if emitsOn s then v else 0
    dacValid := true
    emitO := emitsOn s
    turns := s.turns.tail }

theorem emitsOn_endTone {s : State} (h : s.t = s.nextT) : emitsOn s = false := by simp [emitsOn, endToneDue, h]

theorem emitsOn_hold {s : State} (h : s.t ≠ s.nextT) : emitsOn s = s.emit := by simp [emitsOn, endToneDue, h]

theorem emitsOn_eq_true_iff {s : State} : emitsOn s = true ↔ s.emit = true ∧ s.t ≠ s.nextT := by
  simp [emitsOn, endToneDue]

/-- A tick that is no boundary tick counts on (R223, R230). -/
theorem step_countedOn {s : State} {v : Sample} (h : s.cfg.WellFormed) (hturn : nextTurn s = .tick)
    (hv : romRead s.cfg s.waveIdx.val = some v) (hoff : s.t ≠ s.nextT + gap s.cfg) :
    step s = .next (countedOn v s) := by
  have hindex : nextIndex s.waveIdx = s.waveIdx + 1 := nextIndex_eq h s.waveIdx
  rw [step_eq_takeTurn h, hturn, takeTurn, tick, branch_dropTurn]
  by_cases hend : s.t = s.nextT
  · rw [branch_endTone_iff.2 hend]
    dsimp only
    rw [generate_of_romRead (s := endTone (dropTurn s)) (el := false) hv]
    simp [present, endTone, dropTurn, countedOn, emitsOn_endTone hend, hindex]
  · rw [branch_hold_iff.2 ⟨hend, hoff⟩]
    dsimp only
    rw [generate_of_romRead (s := hold (dropTurn s)) (el := false) hv]
    simp only [present, readIndex_false, hold, dropTurn, countedOn, emitsOn_hold hend, hindex]
    rfl

/-! ### BOUNDARY -/

/-- The decoder's answer does not look at the schedule. -/
theorem nextElement_dropTurn {s e : State} {o : Option Kind} (h : nextElement s = (o, e)) :
    nextElement (dropTurn s) = (o, dropTurn e) := by
  rcases nextElement_cases s with
    ⟨hd, he⟩ | ⟨hd, he⟩ | ⟨hd, hq, he⟩ | ⟨w, ws, hd, hq, hl, he⟩ | ⟨w, ws, hd, hq, hl, he⟩ <;>
    cases he.symm.trans h
  · exact nextElement_tones (s := dropTurn s) hd
  · exact nextElement_trail (s := dropTurn s) hd
  · exact nextElement_nil (s := dropTurn s) hd hq
  · rw [nextElement_cons (s := dropTurn s) hd hq, openWord_rest hl]
    rfl
  · rw [nextElement_cons (s := dropTurn s) hd hq, openWord_letter hl]
    rfl

section

variable {s e : State} (h : s.cfg.WellFormed) (hturn : nextTurn s = .tick) (ht : s.t = s.nextT + gap s.cfg)
include h hturn ht

/-- A boundary tick on which the decoder answers an element starts it (R224, R225). -/
theorem step_of_some {k : Kind} (he : nextElement (dropTurn s) = (some k, e)) : step s = .next (started k e) := by
  have hcfg : e.cfg = s.cfg := (nextElement_queue he).1
  rw [step_boundary h hturn ht, exec_fetch, he]
  exact startTick_eq (hcfg ▸ h) k

/-- A boundary tick on which it answers none idles (R224, R226). -/
theorem step_of_none (he : nextElement (dropTurn s) = (none, e)) : step s = .next (idled e) := by
  have hcfg : e.cfg = s.cfg := (nextElement_queue he).1
  rw [step_boundary h hturn ht, exec_fetch, he]
  exact idleTick_eq (hcfg ▸ h)

end

theorem atBoundary_of_started {s : State} {k : Kind} (h : startedNow s = some k) : atBoundary s = true := by
  by_contra hoff
  rw [startedNow_of_not_boundary (by simpa using hoff)] at h
  cases h

/-- The step that starts an element, by the decoder's answer in the state before it. -/
theorem exists_step_started {s : State} {k : Kind} (h : s.cfg.WellFormed) (hk : startedNow s = some k) :
    ∃ e, nextElement s = (some k, e) ∧ step s = .next (started k (dropTurn e)) := by
  have hboundary := atBoundary_of_started hk
  obtain ⟨hturn, hb⟩ := atBoundary_iff.1 hboundary
  rw [startedNow, if_pos hboundary] at hk
  obtain ⟨e, he⟩ : ∃ e, nextElement s = (some k, e) := ⟨_, Prod.ext hk rfl⟩
  exact ⟨e, he, step_of_some h hturn (eq_gapEnd_of_branch_boundary hb) (nextElement_dropTurn he)⟩

/-- The step of an idle poll, by the decoder's answer in the state before it. -/
theorem exists_step_idled {s : State} (h : s.cfg.WellFormed) (hboundary : atBoundary s = true)
    (hnone : startedNow s = none) : ∃ e, nextElement s = (none, e) ∧ step s = .next (idled (dropTurn e)) := by
  obtain ⟨hturn, hb⟩ := atBoundary_iff.1 hboundary
  rw [startedNow, if_pos hboundary] at hnone
  obtain ⟨e, he⟩ : ∃ e, nextElement s = (none, e) := ⟨_, Prod.ext hnone rfl⟩
  exact ⟨e, he, step_of_none h hturn (eq_gapEnd_of_branch_boundary hb) (nextElement_dropTurn he)⟩

end Sys2Proof.Machine

open Sys2Proof Sys2Proof.Machine Sys2Proof.Claims

/-- Settles O3: END_TONE is the tick that counts on with the tone off. -/
theorem endToneMutesAndCountsOn : Obligations.EndToneMutesAndCountsOn := by
  intro s h hturn hend
  obtain ⟨v, hv⟩ := exists_romRead h s.waveIdx
  rw [step_countedOn h hturn hv (ne_gapEnd_of_endTone h hend)]
  simp [countedOn, emitsOn_endTone hend]

/-- Settles O4: HOLD is the tick that counts on with `emit` as it was. -/
theorem holdOnlyCountsAndPlays : Obligations.HoldOnlyCountsAndPlays := by
  intro s v h hv hturn hnext hgap
  rw [step_countedOn h hturn hv hgap]
  simp [countedOn, emitsOn_hold hnext]

/-- Settles O5: the decoder's two answers. -/
theorem boundaryPlaysTheDecodersAnswer : Obligations.BoundaryPlaysTheDecodersAnswer := by
  intro s h hturn ht
  rcases he : nextElement (dropTurn s) with ⟨_ | k, e⟩
  · exact step_of_none h hturn ht he
  · exact step_of_some h hturn ht he

/-- Settles O10: each row is its kind's start. -/
theorem elementKindsStart : Obligations.ElementKindsStart :=
  fun _ h => ⟨startTick_eq h .dit, startTick_eq h .dah, startTick_eq h .lgap, startTick_eq h .wgap⟩

/-- Settles O56: both comparisons hold together only if adding the gap changes nothing. -/
theorem endToneIsTestedBeforeBoundary : Obligations.EndToneIsTestedBeforeBoundary := by
  refine ⟨fun s hend => branch_endTone_iff.2 hend, fun s hfits hend hgap => ?_,
    fun s hu => branch_ne_boundary_of_no_gap hu, fun s h hboth => ne_gapEnd_of_endTone h hboth.1 hboth.2⟩
  have hzero : BitVec.ofNat 32 s.cfg.u = 0 := left_eq_add.1 (hend.symm.trans hgap)
  have hval : s.cfg.u % 2 ^ 32 = 0 := congrArg BitVec.toNat hzero
  rwa [Nat.mod_eq_of_lt hfits] at hval

/-- Settles O58: no duration is cut off by the 32 bits, and a started element's is what `next_t` holds. -/
theorem durationsAreTheFixedRatios : Obligations.DurationsAreTheFixedRatios := by
  refine ⟨fun c h => ⟨dur_toNat h .dit, dur_toNat h .dah, dur_toNat h .lgap, dur_toNat h .wgap, gap_toNat h⟩,
    fun s s' k hk hstep => ?_⟩
  obtain ⟨e, he, hstart⟩ := exists_step_started (step_cases hstep).1 hk
  cases hstart.symm.trans hstep
  have hcfg : e.cfg = s.cfg := (nextElement_queue he).1
  exact hcfg ▸ (dur_eq_units e.cfg k).symm

end

section
/-! The span of an element or an idle interval (R222, R229, R233): what the turns short of the next boundary tick make
of a state, pushes and quiet cycles between them or not. -/

namespace Sys2Proof.Machine

open Claims

/-! ### the counter short of a boundary -/

/-- The clauses of R50 that counting on rests on; they say nothing of the decoder and the queue. -/
structure Counting (s : State) : Prop where
  /-- The constraints of R10. -/
  build : s.cfg.WellFormed
  /-- The end of the gap is no wrapped number (R240). -/
  fits : s.nextT.toNat + s.cfg.u < 2 ^ 32
  /-- R50 (f). -/
  counter : s.t.toNat ≤ s.nextT.toNat + s.cfg.u
  /-- The emit window lies in the span of a tone, and the table is as long as the longest (R50 (e), R200). -/
  emitting : s.emit = true → s.t.toNat ≤ s.nextT.toNat ∧ s.nextT.toNat ≤ tableLen s.cfg

theorem Inv.toCounting {s : State} (h : Inv s) : Counting s where
  build := h.build
  fits := h.gapEnd_toNat ▸ (s.nextT + gap s.cfg).isLt
  counter := h.counter
  emitting := fun hemit => by
    obtain ⟨htone, -, hle⟩ := h.emitting hemit
    refine ⟨hle, ?_⟩
    rcases htone with hdit | hdah
    · rw [hdit, dur_toNat h.build]
      exact Nat.le_mul_of_pos_left s.cfg.u (by decide)
    · rw [hdah, dur_toNat h.build, tableLen]

theorem Counting.gapEnd_toNat {s : State} (h : Counting s) :
    (s.nextT + gap s.cfg).toNat = s.nextT.toNat + s.cfg.u := by
  rw [BitVec.toNat_add, gap_toNat h.build, Nat.mod_eq_of_lt h.fits]

/-- `t` stands at the end of the gap when no tick is left until the boundary tick (R233). -/
theorem Counting.gapEnd_iff {s : State} (h : Counting s) : s.t = s.nextT + gap s.cfg ↔ untilBoundary s = 0 := by
  have hend := h.gapEnd_toNat
  have hcounter := h.counter
  rw [← BitVec.toNat_inj, hend, untilBoundary]
  omega

theorem Counting.atBoundary_iff {s : State} (h : Counting s) :
    atBoundary s = true ↔ nextTurn s = .tick ∧ untilBoundary s = 0 := by
  rw [Machine.atBoundary_iff, ← h.gapEnd_iff]
  exact and_congr_right fun _ => ⟨eq_gapEnd_of_branch_boundary, branch_boundary_of_gapEnd h.build⟩

theorem Counting.t_succ_toNat {s : State} (h : Counting s) (hroom : 0 < untilBoundary s) :
    (s.t + 1).toNat = s.t.toNat + 1 := by
  have hfits := h.fits
  have hadd : (s.t + 1).toNat = (s.t.toNat + 1) % 2 ^ 32 := BitVec.toNat_add _ _
  rw [untilBoundary] at hroom
  rw [hadd, Nat.mod_eq_of_lt (by omega)]

/-- The tone is on only inside the emit window. -/
theorem Counting.emit_eq {s : State} (h : Counting s) : s.emit = (s.emit && decide (s.t.toNat ≤ s.nextT.toNat)) := by
  cases hemit : s.emit with
  | false => rfl
  | true => simp [(h.emitting hemit).1]

/-! ### counting on -/

/-- `s'` is `s` after turns of which `n` were ticks, none of them a boundary tick. -/
structure CountsOn (n : Nat) (s s' : State) : Prop where
  /-- The counter is in its span still. -/
  counting : Counting s'
  /-- The build. -/
  cfg : s'.cfg = s.cfg
  /-- The counter has counted the ticks (R223, R230). -/
  t : s'.t.toNat = s.t.toNat + n
  /-- The span. -/
  nextT : s'.nextT = s.nextT
  /-- The tone is over once `next_t` has been passed (R223). -/
  emit : s'.emit = (s.emit && decide (s'.t.toNat ≤ s'.nextT.toNat))
  /-- The decoder's state. -/
  decState : s'.decState = s.decState
  /-- The held length mask. -/
  symLen : s'.symLen = s.symLen
  /-- The held code mask. -/
  symCode : s'.symCode = s.symCode
  /-- The outputs follow the table if they did (R267). -/
  output : OutputFollowsTable s → OutputFollowsTable s'
  /-- With only ticks to come, only ticks are to come, and nothing was pushed. -/
  ticksOnly : s.turns = [] → s'.turns = [] ∧ s'.q = s.q

theorem CountsOn.refl {s : State} (h : Counting s) : CountsOn 0 s s :=
  ⟨h, rfl, rfl, rfl, h.emit_eq, rfl, rfl, rfl, id, fun hturns => ⟨hturns, rfl⟩⟩

theorem CountsOn.trans {m n : Nat} {s₁ s₂ s₃ : State} (h : CountsOn m s₁ s₂) (h' : CountsOn n s₂ s₃) :
    CountsOn (m + n) s₁ s₃ where
  counting := h'.counting
  cfg := h'.cfg.trans h.cfg
  t := by rw [h'.t, h.t, Nat.add_assoc]
  nextT := h'.nextT.trans h.nextT
  emit := by
    have hle : s₃.t.toNat ≤ s₃.nextT.toNat → s₂.t.toNat ≤ s₂.nextT.toNat := by
      rw [h'.t, h'.nextT]
      omega
    rw [h'.emit, h.emit, Bool.and_assoc, ← Bool.decide_and]
    simp only [and_iff_right_of_imp hle]
  decState := h'.decState.trans h.decState
  symLen := h'.symLen.trans h.symLen
  symCode := h'.symCode.trans h.symCode
  output := h'.output ∘ h.output
  ticksOnly := fun hturns => by
    obtain ⟨hturns₂, hq₂⟩ := h.ticksOnly hturns
    obtain ⟨hturns₃, hq₃⟩ := h'.ticksOnly hturns₂
    exact ⟨hturns₃, hq₃.trans hq₂⟩

theorem CountsOn.untilBoundary {n : Nat} {s s' : State} (h : CountsOn n s s') :
    untilBoundary s' = untilBoundary s - n := by
  rw [Machine.untilBoundary, Machine.untilBoundary, h.nextT, h.cfg, h.t, Nat.sub_add_eq]

/-- With only ticks to come, the boundary tick comes when the ticks until it are over. -/
theorem CountsOn.atBoundary_eq {n : Nat} {s s' : State} (h : CountsOn n s s') (hturns : s.turns = [])
    (hn : n ≤ Machine.untilBoundary s) : atBoundary s' = decide (n = Machine.untilBoundary s) := by
  have htick : nextTurn s' = .tick := by rw [nextTurn, (h.ticksOnly hturns).1]
  rw [Bool.eq_iff_iff, h.counting.atBoundary_iff, h.untilBoundary, decide_eq_true_iff, and_iff_right htick]
  omega

theorem CountsOn.heldElements {n : Nat} {s s' : State} (h : CountsOn n s s') : heldElements s' = heldElements s := by
  rw [Machine.heldElements, Machine.heldElements, h.decState, h.symLen, h.symCode]

/-! ### one turn -/

/-- A turn that is no tick leaves the counter, the decoder and the samples. -/
theorem Counting.countsOn_off {s : State} (h : Counting s) (hturns : s.turns ≠ []) {q toPush : List Word} {ring : Ring}
    {valid : Bool} {turns : List Turn} :
    CountsOn 0 s { s with q := q, ring := ring, toPush := toPush, dacValid := valid, turns := turns } :=
  ⟨⟨h.build, h.fits, h.counter, h.emitting⟩, rfl, rfl, rfl, h.emit_eq, rfl, rfl, rfl,
    fun ho => ⟨ho.channels, ho.shown, ho.silent, ho.sample, ho.index⟩, fun hnil => absurd hnil hturns⟩

/-- A tick that counts on from inside the emit window plays the entry at its offset (R234, R267). -/
theorem OutputFollowsTable.counted {s : State} {v : Sample} (hs : Counting s) (h : OutputFollowsTable s)
    (hv : romRead s.cfg s.waveIdx.val = some v) (hroom : 0 < untilBoundary s) : OutputFollowsTable (countedOn v s) := by
  have hidx : emitsOn s = true → s.waveIdx.val = s.t.toNat := fun hon => by
    obtain ⟨hemit, hend⟩ := emitsOn_eq_true_iff.1 hon
    obtain ⟨hle, htable⟩ := hs.emitting hemit
    have hne : s.t.toNat ≠ s.nextT.toNat := fun heq => hend (BitVec.eq_of_toNat_eq heq)
    rw [h.index hemit, if_neg (by omega)]
  have hsucc : (countedOn v s).t.toNat = s.t.toNat + 1 := hs.t_succ_toNat hroom
  refine ⟨rfl, rfl, fun hoff => if_neg (ne_true_of_eq_false hoff), fun hon => ?_, fun hon => ?_⟩
  · have hleft : (countedOn v s).dacLeft = v := if_pos hon
    rw [hsucc, hleft, Nat.add_sub_cancel, ← hidx hon]
    exact hv
  · have hadv : (countedOn v s).waveIdx = nextIndex s.waveIdx := (nextIndex_eq hs.build s.waveIdx).symm
    have hlt := index_lt hs.build s.waveIdx
    rw [hsucc, hadv, nextIndex_val hs.build, ← hidx hon]
    show _ = if s.waveIdx.val + 1 = tableLen s.cfg then 0 else s.waveIdx.val + 1
    split_ifs with hlast
    · rw [hlast, Nat.mod_self]
    · exact Nat.mod_eq_of_lt (by omega)

theorem Counting.emitsOn_eq {s : State} (h : Counting s) :
    emitsOn s = (s.emit && decide (s.t.toNat + 1 ≤ s.nextT.toNat)) := by
  rw [Bool.eq_iff_iff, emitsOn_eq_true_iff, Bool.and_eq_true, decide_eq_true_iff, ne_eq, ← BitVec.toNat_inj]
  refine and_congr_right fun hemit => ?_
  have hle := (h.emitting hemit).1
  omega

/-- A tick short of the boundary counts on. -/
theorem Counting.countsOn_tick {s : State} {v : Sample} (h : Counting s)
    (hv : romRead s.cfg s.waveIdx.val = some v) (hroom : 0 < untilBoundary s) : CountsOn 1 s (countedOn v s) := by
  have hsucc : (countedOn v s).t.toNat = s.t.toNat + 1 := h.t_succ_toNat hroom
  have hemit : emitsOn s = (s.emit && decide ((countedOn v s).t.toNat ≤ s.nextT.toNat)) := hsucc ▸ h.emitsOn_eq
  have hcounter : (countedOn v s).t.toNat ≤ s.nextT.toNat + s.cfg.u := by
    rw [untilBoundary] at hroom
    omega
  refine ⟨⟨h.build, h.fits, hcounter, fun hon => ?_⟩, rfl, hsucc, rfl, hemit, rfl, rfl, rfl,
    fun ho => ho.counted h hv hroom, fun hturns => ⟨by simp [countedOn, hturns], rfl⟩⟩
  obtain ⟨hbefore, hwindow⟩ := Bool.and_eq_true_iff.1 (hemit.symm.trans hon)
  exact ⟨of_decide_eq_true hwindow, (h.emitting hbefore).2⟩

/-- The producer's turn writes the queue, its ring and the producer's words at most (R84). -/
theorem producerTurn_frame (s : State) :
    ∃ q ring toPush, producerTurn s = { s with q := q, ring := ring, toPush := toPush } := by
  rcases producerTurn_cases s with ⟨-, he⟩ | ⟨_, _, -, -, he⟩ | ⟨_, _, -, -, he⟩ <;> exact ⟨_, _, _, he⟩

/-- In a well-formed build a quiet turn is a quiet cycle (R269). -/
theorem step_quiet {s : State} (h : s.cfg.WellFormed) (hturn : nextTurn s = .quiet) :
    step s = .next (quietCycle (dropTurn s)) := by
  rw [step_eq_takeTurn h, hturn, takeTurn]

/-- Every turn but a reset, a breach of duty and a boundary tick is taken, and counts on. -/
theorem Counting.step {s : State} (h : Counting s) (hrun : (nextTurn s).keepsRunning = true)
    (hroom : nextTurn s = .tick → 0 < untilBoundary s) :
    ∃ s', step s = .next s' ∧ CountsOn (if nextTurn s = .tick then 1 else 0) s s' := by
  have hturns : nextTurn s ≠ .tick → s.turns ≠ [] := fun hne hnil => hne (by rw [nextTurn, hnil])
  cases hturn : nextTurn s with
  | tick =>
    have hroom := hroom hturn
    have hoff : s.t ≠ s.nextT + gap s.cfg := mt h.gapEnd_iff.1 (by omega)
    obtain ⟨v, hv⟩ := exists_romRead h.build s.waveIdx
    exact ⟨_, step_countedOn h.build hturn hv hoff, h.countsOn_tick hv hroom⟩
  | push =>
    obtain ⟨q, ring, toPush, hframe⟩ := producerTurn_frame (dropTurn s)
    refine ⟨_, (step_push h.build hturn).trans (congrArg _ hframe), ?_⟩
    exact h.countsOn_off (hturns (by simp [hturn]))
  | quiet =>
    refine ⟨_, step_quiet h.build hturn, ?_⟩
    exact h.countsOn_off (hturns (by simp [hturn]))
  | reset a b => simp [hturn, Turn.keepsRunning] at hrun
  | misuse m => simp [hturn, Turn.keepsRunning] at hrun

/-! ### many turns -/

@[simp] theorem ticksWithin_nil (n : Nat) : ticksWithin n [] = n := by cases n <;> rfl

theorem ticksWithin_succ (n : Nat) (s : State) :
    ticksWithin (n + 1) s.turns = (if nextTurn s = .tick then 1 else 0) + ticksWithin n s.turns.tail := by
  cases hs : s.turns with
  | nil => simp [nextTurn, hs, Nat.add_comm]
  | cons turn rest => simp [nextTurn, hs, ticksWithin]

/-- Until the ticks of the span are used up every run goes on and counts its ticks, whatever is pushed meanwhile. -/
theorem Counting.runFor_within {s : State} (h : Counting s)
    (hrun : ∀ turn ∈ s.turns, turn.keepsRunning = true) {n : Nat}
    (hn : ticksWithin n s.turns ≤ untilBoundary s) :
    ∃ s', runFor n s = .next s' ∧ CountsOn (ticksWithin n s.turns) s s' := by
  induction n generalizing s with
  | zero => exact ⟨s, rfl, .refl h⟩
  | succ n ih =>
    rw [ticksWithin_succ] at hn ⊢
    obtain ⟨s₁, hstep, hfirst⟩ := h.step (nextTurn_keepsRunning hrun) fun htick => by
      rw [if_pos htick] at hn
      omega
    have hturns := step_turns hstep
    rw [← hturns] at hn ⊢
    obtain ⟨s', hrest, hcounts⟩ := ih hfirst.counting (hturns ▸ turns_tail_forall hrun)
      (by rw [hfirst.untilBoundary]; omega)
    exact ⟨s', (runFor_succ_of_next hstep n).trans hrest, hfirst.trans hcounts⟩

/-- With only ticks to come: each of the `untilBoundary s` next turns is a tick that counts on. -/
theorem Counting.runFor_ticks {s : State} (h : Counting s) (hturns : s.turns = []) {n : Nat}
    (hn : n ≤ untilBoundary s) : ∃ s', runFor n s = .next s' ∧ CountsOn n s s' := by
  simpa [hturns] using h.runFor_within (n := n) (by simp [hturns]) (by simpa [hturns] using hn)

/-- With only ticks to come, the turn after these is a boundary tick. -/
theorem Counting.runFor_to_boundary {s : State} (h : Counting s) (hturns : s.turns = []) :
    ∃ s', runFor (untilBoundary s) s = .next s' ∧ CountsOn (untilBoundary s) s s' ∧ atBoundary s' = true := by
  obtain ⟨s', hrun, hs'⟩ := h.runFor_ticks hturns le_rfl
  exact ⟨s', hrun, hs', by simp [hs'.atBoundary_eq hturns le_rfl]⟩

/-- With only ticks to come, none of these is a boundary tick. -/
theorem Counting.runFor_off_boundary {s : State} (h : Counting s) (hturns : s.turns = []) {n : Nat}
    (hn : n < untilBoundary s) : ∃ s', runFor n s = .next s' ∧ CountsOn n s s' ∧ atBoundary s' = false := by
  obtain ⟨s', hrun, hs'⟩ := h.runFor_ticks hturns hn.le
  exact ⟨s', hrun, hs', by simp [hs'.atBoundary_eq hturns hn.le, hn.ne]⟩

end Sys2Proof.Machine

open Sys2Proof Sys2Proof.Machine

/-- Settles O41: every tick until then counts on. -/
theorem nextBoundaryComesOnTime : Obligations.NextBoundaryComesOnTime := by
  intro s hinv hturns
  refine ⟨fun n hn => ?_, ?_⟩
  · obtain ⟨s', hrun, -, hoff⟩ := hinv.toCounting.runFor_off_boundary hturns hn
    exact ⟨s', hrun, hoff⟩
  · obtain ⟨s', hrun, -, hboundary⟩ := hinv.toCounting.runFor_to_boundary hturns
    exact ⟨s', hrun, hboundary⟩

/-- Settles O46: an idle span has been counted from 1 at least, and the queue is untouched until its boundary tick. -/
theorem pushedWordStartsWithinTheIdleInterval : Obligations.PushedWordStartsWithinTheIdleInterval := by
  intro s w ws hinv hturns hempty hspan hq
  have hcount := hinv.toCounting
  refine ⟨?_, ?_, fun m hm => ?_⟩
  · have hspanTicks : s.nextT.toNat = s.cfg.f + 1 := by rw [hspan, idleSpan_toNat hinv.build]
    have hcounting := hinv.counting (hspan ▸ idleSpan_ne_zero hinv.build)
    rw [untilBoundary]
    omega
  · obtain ⟨s', hrun, hs', hboundary⟩ := hcount.runFor_to_boundary hturns
    refine ⟨s', hrun, ?_⟩
    rw [poppedNow_of_boundary hboundary, if_pos (hs'.decState.trans hempty), (hs'.ticksOnly hturns).2, hq]
    rfl
  · obtain ⟨s', hrun, hs', hoff⟩ := hcount.runFor_off_boundary hturns hm
    exact ⟨s', hrun, (hs'.ticksOnly hturns).2, poppedNow_of_not_boundary hoff⟩

end

section
/-! The timeline from a boundary tick on (R227, R233, R234) and from reset (R323), and the drained block (R228). -/

namespace Sys2Proof.Machine

open Claims

/-! ### where the counter stands after a boundary tick -/

theorem units_bounds (k : Kind) : 1 ≤ units k ∧ units k ≤ 7 := by cases k <;> decide

/-- No tone is longer than the table (R200, conflict C9). -/
theorem units_le_of_isTone {k : Kind} (h : isTone k = true) : units k ≤ 3 := by
  rcases isTone_cases h with rfl | rfl <;> decide

section

variable {e : State} (h : e.cfg.WellFormed)
include h

theorem started_nextT_toNat (k : Kind) : (started k e).nextT.toNat = units k * e.cfg.u := by
  have hdur := dur_toNat h k
  rw [dur_eq_units] at hdur
  rw [started, hdur]
  cases k <;> simp [durTicks, units]

theorem idled_nextT_toNat : (idled e).nextT.toNat = e.cfg.f + 1 := idleSpan_toNat h

theorem counting_started (k : Kind) : Counting (started k e) := by
  have hunit := wellFormed_unit h
  have hfit := wellFormed_counters h
  have hnext := started_nextT_toNat h k
  obtain ⟨hpos, hbound⟩ := units_bounds k
  have hpos := Nat.mul_le_mul_right e.cfg.u hpos
  have hbound := Nat.mul_le_mul_right e.cfg.u hbound
  have hcfg : (started k e).cfg.u = e.cfg.u := rfl
  have ht : (started k e).t.toNat = 1 := rfl
  refine ⟨h, by omega, by omega, fun htone => ⟨by omega, ?_⟩⟩
  rw [hnext]
  exact Nat.mul_le_mul_right _ (units_le_of_isTone htone)

theorem counting_idled : Counting (idled e) := by
  have hfit := wellFormed_counters h
  have hnext := idled_nextT_toNat h
  have hcfg : (idled e).cfg.u = e.cfg.u := rfl
  have ht : (idled e).t.toNat = 1 := rfl
  exact ⟨h, by omega, by omega, nofun⟩

/-- The first sample is `ROM[0] = 0`, and the index of the next tick is 1 (R263 to R265). -/
theorem outputFollowsTable_started (k : Kind) : OutputFollowsTable (started k e) := by
  have hunit := wellFormed_unit h
  have hindex : (1 : WaveIndex e.cfg) = nextIndex 0 := ((nextIndex_eq h 0).trans (zero_add 1)).symm
  refine ⟨rfl, rfl, fun _ => rfl, fun _ => romRead_zero h, fun _ => ?_⟩
  show (1 : WaveIndex e.cfg).val = if 1 = 3 * e.cfg.u then 0 else 1
  have hmod : (0 + 1) % (3 * e.cfg.u) = 1 := Nat.mod_eq_of_lt (by omega)
  rw [hindex, nextIndex_val h, if_neg (by omega)]
  exact hmod

theorem untilBoundary_started (k : Kind) : untilBoundary (started k e) + 1 = units k * e.cfg.u + e.cfg.u := by
  have hunit := wellFormed_unit h
  have hcfg : (started k e).cfg.u = e.cfg.u := rfl
  have ht : (started k e).t.toNat = 1 := rfl
  rw [untilBoundary, started_nextT_toNat h, hcfg, ht]
  omega

theorem untilBoundary_idled : untilBoundary (idled e) + 1 = e.cfg.f + 1 + e.cfg.u := by
  have hcfg : (idled e).cfg.u = e.cfg.u := rfl
  have ht : (idled e).t.toNat = 1 := rfl
  rw [untilBoundary, idled_nextT_toNat h, hcfg, ht]
  omega

end

theorem outputFollowsTable_idled (e : State) : OutputFollowsTable (idled e) := ⟨rfl, rfl, fun _ => rfl, nofun, nofun⟩

/-! ### the runs that begin with a boundary tick -/

/-- A boundary tick and the span it opens, as one run. -/
theorem runFor_span {s s₁ : State} (hstep : step s = .next s₁) (hcount : Counting s₁) (hturns : s₁.turns = [])
    {span : Nat} (hspan : untilBoundary s₁ + 1 = span) {m : Nat} (hm : m + 1 ≤ span) :
    ∃ s', runFor (m + 1) s = .next s' ∧ CountsOn m s₁ s' ∧ atBoundary s' = decide (m + 1 = span) := by
  subst hspan
  have hm : m ≤ untilBoundary s₁ := Nat.le_of_succ_le_succ hm
  obtain ⟨s', hrun, hs'⟩ := hcount.runFor_ticks hturns hm
  exact ⟨s', (runFor_succ_of_next hstep m).trans hrun, hs', by simp [hs'.atBoundary_eq hturns hm]⟩

section

variable {s : State} (h : s.cfg.WellFormed) (hturns : s.turns = [])
include h hturns

/-- After a boundary tick that starts an element, each tick of the element's span counts on (R233). -/
theorem runFor_started {k : Kind} (hk : startedNow s = some k) :
    ∃ e, nextElement s = (some k, e) ∧ ∀ m, m + 1 ≤ units k * s.cfg.u + s.cfg.u →
      ∃ s', runFor (m + 1) s = .next s' ∧ CountsOn m (started k (dropTurn e)) s' ∧
        atBoundary s' = decide (m + 1 = units k * s.cfg.u + s.cfg.u) := by
  obtain ⟨e, he, hstep⟩ := exists_step_started h hk
  have hcfg : e.cfg = s.cfg := (nextElement_queue he).1
  have hbuild : (dropTurn e).cfg.WellFormed := hcfg ▸ h
  have hspan : untilBoundary (started k (dropTurn e)) + 1 = units k * s.cfg.u + s.cfg.u :=
    hcfg ▸ untilBoundary_started hbuild k
  have hnil : (started k (dropTurn e)).turns = [] := (step_turns hstep).trans (by rw [hturns]; rfl)
  exact ⟨e, he, fun m hm => runFor_span hstep (counting_started hbuild k) hnil hspan hm⟩

/-- After an idle poll, each tick of the idle span counts on (R227). -/
theorem runFor_idled (hboundary : atBoundary s = true) (hnone : startedNow s = none) :
    ∃ e, ∀ m, m + 1 ≤ s.cfg.f + 1 + s.cfg.u →
      ∃ s', runFor (m + 1) s = .next s' ∧ CountsOn m (idled e) s' ∧
        atBoundary s' = decide (m + 1 = s.cfg.f + 1 + s.cfg.u) := by
  obtain ⟨e, he, hstep⟩ := exists_step_idled h hboundary hnone
  have hcfg : e.cfg = s.cfg := (nextElement_queue he).1
  have hbuild : (dropTurn e).cfg.WellFormed := hcfg ▸ h
  have hspan : untilBoundary (idled (dropTurn e)) + 1 = s.cfg.f + 1 + s.cfg.u := hcfg ▸ untilBoundary_idled hbuild
  have hnil : (idled (dropTurn e)).turns = [] := (step_turns hstep).trans (by rw [hturns]; rfl)
  exact ⟨dropTurn e, fun m hm => runFor_span hstep (counting_idled hbuild) hnil hspan hm⟩

end

/-- Outside the emit window both channels and `emit_o` are 0 (R265, R267). -/
theorem OutputFollowsTable.silence {s : State} (h : OutputFollowsTable s) (hoff : s.emit = false) :
    s.emitO = false ∧ s.dacLeft = 0 ∧ s.dacRight = 0 :=
  ⟨h.shown.trans hoff, h.silent hoff, h.channels.symm.trans (h.silent hoff)⟩

/-- `emit` after `m` further ticks of an element. -/
theorem CountsOn.emit_started {m : Nat} {k : Kind} {e s' : State} (h : CountsOn m (started k e) s')
    (hbuild : e.cfg.WellFormed) : s'.emit = (isTone k && decide (m + 1 ≤ units k * e.cfg.u)) := by
  have ht : s'.t.toNat = 1 + m := h.t
  rw [h.emit, h.nextT, started_nextT_toNat hbuild, ht, Nat.add_comm]
  rfl

/-! ### from reset -/

theorem counting_reset {c : Config} (h : c.WellFormed) (words : List Word) (turns : List Turn) :
    Counting { State.resetOf c with toPush := words, turns := turns } :=
  (resetMeetsTheInvariant c words turns h).1.toCounting

/-! ### drained -/

/-- A drained, silent block to which nothing will be pushed, with no reset to come. -/
structure Resting (s : State) : Prop where
  /-- The constraints of R10. -/
  build : s.cfg.WellFormed
  /-- R228. -/
  drained : Drained s
  /-- Nothing to push. -/
  toPush : s.toPush = []
  /-- No reset and no breach of duty to come. -/
  running : ∀ turn ∈ s.turns, turn.keepsRunning = true
  /-- `emit_o` and both channels are 0. -/
  silence : s.emitO = false ∧ s.dacLeft = 0 ∧ s.dacRight = 0

/-- A tick counts on without a tone, or idles once more (R226, R228). -/
theorem Resting.step {s : State} (h : Resting s) : ∃ s', step s = .next s' ∧ Resting s' := by
  obtain ⟨hbuild, ⟨hq, hempty, hemit, hspan⟩, hpush, hrunning, hsilence⟩ := h
  have hrest := turns_tail_forall hrunning
  have hrun := nextTurn_keepsRunning hrunning
  cases hturn : nextTurn s with
  | tick =>
    by_cases hgap : s.t = s.nextT + gap s.cfg
    · refine ⟨_, step_of_none hbuild hturn hgap (nextElement_nil (s := dropTurn s) hempty hq), ?_⟩
      exact ⟨hbuild, ⟨hq, hempty, rfl, rfl⟩, hpush, hrest, rfl, rfl, rfl⟩
    · obtain ⟨v, hv⟩ := exists_romRead hbuild s.waveIdx
      have hmute : ¬ emitsOn s = true := by simp [emitsOn, hemit]
      refine ⟨_, step_countedOn hbuild hturn hv hgap, ?_⟩
      exact ⟨hbuild, ⟨hq, hempty, eq_false_of_ne_true hmute, hspan⟩, hpush, hrest,
        eq_false_of_ne_true hmute, if_neg hmute, if_neg hmute⟩
  | push =>
    refine ⟨_, (step_push hbuild hturn).trans (congrArg _ (producerTurn_nil (s := dropTurn s) hpush)), ?_⟩
    exact ⟨hbuild, ⟨hq, hempty, hemit, hspan⟩, hpush, hrest, hsilence⟩
  | quiet =>
    refine ⟨_, step_quiet hbuild hturn, ?_⟩
    exact ⟨hbuild, ⟨hq, hempty, hemit, hspan⟩, hpush, hrest, hsilence⟩
  | reset a b => simp [hturn, Turn.keepsRunning] at hrun
  | misuse m => simp [hturn, Turn.keepsRunning] at hrun

theorem Resting.runFor {s : State} (h : Resting s) (n : Nat) : ∃ s', runFor n s = .next s' ∧ Resting s' := by
  induction n generalizing s with
  | zero => exact ⟨s, rfl, h⟩
  | succ n ih =>
    obtain ⟨s₁, hstep, h₁⟩ := h.step
    rw [runFor_succ_of_next hstep]
    exact ih h₁

end Sys2Proof.Machine

open Sys2Proof Sys2Proof.Machine Sys2Proof.Claims

/-- Settles O40, by induction on the number of steps: each keeps the block at rest. -/
theorem drainedStaysDrainedAndSilent : Obligations.DrainedStaysDrainedAndSilent := by
  intro n s hbuild hdrained hpush hrunning hleft hright hshown
  obtain ⟨s', hrun, hs'⟩ := Resting.runFor ⟨hbuild, hdrained, hpush, hrunning, hshown, hleft, hright⟩ n
  obtain ⟨hshown', hleft', hright'⟩ := hs'.silence
  exact ⟨s', hrun, hs'.drained, hleft', hright', hshown'⟩

/-- Settles O42: the element's ticks count on from its start, and reset is the start of a span of no ticks before a
gap. -/
theorem elementTimeline : Obligations.ElementTimeline := by
  refine ⟨fun s k h hturns _ hk n hpos hn => ?_, fun c words turns h hrunning n hn => ?_⟩
  · obtain ⟨m, rfl⟩ := Nat.exists_eq_add_of_le' hpos
    obtain ⟨e, he, hspan⟩ := runFor_started h hturns hk
    obtain ⟨s', hrun, hs', hboundary⟩ := hspan m hn
    have hcfg : (dropTurn e).cfg = s.cfg := (nextElement_queue he).1
    have hbuild : (dropTurn e).cfg.WellFormed := hcfg ▸ h
    refine ⟨s', hrun, ?_, hboundary⟩
    rw [(hs'.output (outputFollowsTable_started hbuild k)).shown, hs'.emit_started hbuild, hcfg]
  · have huntil : untilBoundary { State.resetOf c with toPush := words, turns := turns } = c.u := Nat.zero_add c.u
    obtain ⟨s', hrun, hs'⟩ := (counting_reset h words turns).runFor_within hrunning (n := n) (huntil ▸ hn)
    obtain ⟨hshown, hleft, hright⟩ := (hs'.output (resetMeetsTheInvariant c words turns h).2.1).silence hs'.emit
    refine ⟨s', hrun, hshown, hleft, hright, hs'.t.trans (Nat.zero_add _), ?_⟩
    rw [hs'.counting.atBoundary_iff, hs'.untilBoundary, huntil]
    exact and_congr_right fun _ => by
      show c.u - ticksWithin n turns = 0 ↔ ticksWithin n turns = c.u
      omega

/-- Settles O43: the idle interval's ticks count on without a tone. -/
theorem idleInterval : Obligations.IdleInterval := by
  intro s h hturns hboundary hnone n hpos hn
  obtain ⟨m, rfl⟩ := Nat.exists_eq_add_of_le' hpos
  obtain ⟨e, hspan⟩ := runFor_idled h hturns hboundary hnone
  obtain ⟨s', hrun, hs', hnext⟩ := hspan m hn
  obtain ⟨hshown, hleft, hright⟩ := (hs'.output (outputFollowsTable_idled e)).silence hs'.emit
  exact ⟨s', hrun, hshown, hleft, hright, hnext⟩

/-- Settles O44: inside the emit window the outputs follow the table, and the window ends with the duration. -/
theorem tonePlaysTheTableOnce : Obligations.TonePlaysTheTableOnce := by
  intro s k h hturns _ hk htone
  obtain ⟨e, he, hspan⟩ := runFor_started h hturns hk
  have hcfg : (dropTurn e).cfg = s.cfg := (nextElement_queue he).1
  have hbuild : (dropTurn e).cfg.WellFormed := hcfg ▸ h
  have hstart := outputFollowsTable_started hbuild k
  have hunit := wellFormed_unit h
  refine ⟨fun m hm => ?_, ?_⟩
  · obtain ⟨s', hrun, hs', -⟩ := hspan m (by omega)
    have hout := hs'.output hstart
    have hemit : s'.emit = true := by
      rw [hs'.emit_started hbuild, hcfg, htone, decide_eq_true (by omega), Bool.and_self]
    have ht : s'.t.toNat = m + 1 := hs'.t.trans (Nat.add_comm 1 m)
    have hcfg' : s'.cfg = s.cfg := hs'.cfg.trans hcfg
    have htable : tableLen s'.cfg = 3 * s.cfg.u := by rw [hcfg']; rfl
    have hlong := Nat.mul_le_mul_right s.cfg.u (units_le_of_isTone htone)
    have hsample := hout.sample hemit
    have hindex := hout.index hemit
    rw [ht, hcfg', Nat.add_sub_cancel] at hsample
    refine ⟨s', hrun, hout.shown.trans hemit, hemit, hsample, hout.channels.symm, ?_⟩
    rw [hindex, ht, htable]
    split_ifs with hlast
    · rw [hlast, Nat.mod_self]
    · rw [Nat.mod_eq_of_lt (by omega)]
  · obtain ⟨s', hrun, hs', -⟩ := hspan (units k * s.cfg.u) (by omega)
    have hemit : s'.emit = false := by
      rw [hs'.emit_started hbuild, hcfg, decide_eq_false (by omega), Bool.and_false]
    exact ⟨s', hrun, (hs'.output hstart).silence hemit⟩

end

section
/-! From word to word (R237, R238): the elements of the word in hand are played one after another, each for its duration
and one gap, and the block drains when the last is played (R228). -/

namespace Sys2Proof.Machine

open Claims

/-! ### one element -/

/-- How many ticks a list of elements is played for: each its duration and the gap after it (R233). -/
def playTicks (u : Nat) (elements : List Kind) : Nat := (elements.map fun k => units k * u + u).sum

@[simp] theorem playTicks_nil (u : Nat) : playTicks u [] = 0 := rfl

@[simp] theorem playTicks_cons (u : Nat) (k : Kind) (ks : List Kind) :
    playTicks u (k :: ks) = units k * u + u + playTicks u ks := by simp [playTicks]

/-- The queue without the word in hand: an EMPTY decoder takes that word off it (R142). -/
def queueBehind (s : State) : List Word := if s.decState = .empty then s.q.tail else s.q

theorem nextElement_queueBehind {s e : State} {o : Option Kind} (h : nextElement s = (o, e)) : e.q = queueBehind s := by
  have hpop := nextElement_pops h
  unfold queueBehind
  split_ifs at hpop ⊢ with hd
  · cases hq : s.q with
    | nil => simpa [hq] using hpop
    | cons w ws => simpa [hq] using hpop
  · simpa using hpop

/-- R50 (c) after the decoder's answer: TONES follows only a tone that leaves another in the masks (R143, R146). -/
theorem nextElement_tones_left {s e : State} {o : Option Kind} (htones : s.decState = .tones → s.symLen ≠ 0)
    (h : nextElement s = (o, e)) : e.decState = .tones → e.symLen ≠ 0 := by
  rcases nextElement_cases s with ⟨-, he⟩ | ⟨-, he⟩ | ⟨-, -, he⟩ | ⟨w, ws, -, -, -, he⟩ | ⟨w, ws, -, -, -, he⟩ <;>
    cases he.symm.trans h
  · simp
  · simp
  · exact htones
  · exact htones
  · simp

/-- A boundary tick is next, and only ticks are to come. -/
structure Due (s : State) : Prop where
  /-- The constraints of R10. -/
  build : s.cfg.WellFormed
  /-- Only ticks to come. -/
  turns : s.turns = []
  /-- The next tick is a boundary tick. -/
  boundary : atBoundary s = true
  /-- R50 (c). -/
  tones : s.decState = .tones → s.symLen ≠ 0

/-- The first element in hand is played for its duration and one gap; then the decoder is asked for the next. -/
theorem Due.plays_first {s : State} {k : Kind} {ks : List Kind} (h : Due s) (hhand : elementsInHand s = k :: ks)
    {n : Nat} (hpos : 1 ≤ n) (hn : n ≤ units k * s.cfg.u + s.cfg.u) :
    ∃ s', runFor n s = .next s' ∧ s'.cfg = s.cfg ∧ s'.q = queueBehind s ∧ heldElements s' = ks ∧
      (n = units k * s.cfg.u + s.cfg.u → Due s') := by
  have hk : startedNow s = some k := (startedNow_of_boundary h.tones h.boundary).trans (by rw [hhand]; rfl)
  obtain ⟨m, rfl⟩ := Nat.exists_eq_add_of_le' hpos
  obtain ⟨e, he, hspan⟩ := runFor_started h.build h.turns hk
  obtain ⟨s', hrun, hs', hboundary⟩ := hspan m hn
  obtain ⟨hframe, -⟩ := nextElement_frame he
  have hcfg : s'.cfg = s.cfg := hs'.cfg.trans (nextElement_queue he).1
  have hheld : heldElements e = ks := (nextElement_inHand h.tones he).2.trans (by rw [hhand]; rfl)
  have hnil : (started k (dropTurn e)).turns = [] := by
    show e.turns.tail = []
    rw [hframe, h.turns]
    rfl
  have hbehind : e.q = queueBehind s := nextElement_queueBehind he
  have hleft : e.decState = .tones → e.symLen ≠ 0 := nextElement_tones_left h.tones he
  obtain ⟨hturns, hq⟩ := hs'.ticksOnly hnil
  refine ⟨s', hrun, hcfg, hq.trans hbehind, hs'.heldElements.trans hheld, fun hlast => ?_⟩
  refine ⟨hcfg ▸ h.build, hturns, hboundary.trans (decide_eq_true hlast), fun htones => ?_⟩
  rw [hs'.symLen]
  exact hleft (hs'.decState.symm.trans htones)

/-! ### a whole word -/

theorem heldElements_eq_nil_iff {s : State} : heldElements s = [] ↔ s.decState = .empty := by
  cases hd : s.decState <;> simp [heldElements, hd]

/-- The elements in hand are played one after another, while the queue behind them stays as it is; then the decoder is
EMPTY and is asked for the next word. -/
theorem Due.plays {s : State} {k : Kind} {ks : List Kind} (h : Due s) (hhand : elementsInHand s = k :: ks) {n : Nat}
    (hpos : 1 ≤ n) (hn : n ≤ playTicks s.cfg.u (k :: ks)) :
    ∃ s', runFor n s = .next s' ∧ s'.q = queueBehind s ∧
      (n = playTicks s.cfg.u (k :: ks) → Due s' ∧ s'.decState = .empty) := by
  induction ks generalizing s k n with
  | nil =>
    obtain ⟨s', hrun, -, hq, hheld, hdue⟩ := h.plays_first hhand hpos (by simpa using hn)
    exact ⟨s', hrun, hq, fun hlast => ⟨hdue (by simpa using hlast), heldElements_eq_nil_iff.1 hheld⟩⟩
  | cons k' ks ih =>
    have hunit := wellFormed_unit h.build
    rw [playTicks_cons] at hn ⊢
    rcases Nat.lt_or_ge (units k * s.cfg.u + s.cfg.u) n with hlater | hfirst
    · obtain ⟨s₁, hrun₁, hcfg, hq₁, hheld, hdue⟩ :=
        h.plays_first hhand (n := units k * s.cfg.u + s.cfg.u) (by omega) le_rfl
      have hfull : s₁.decState ≠ .empty := fun hempty => by simp [heldElements_empty hempty] at hheld
      have hhand₁ : elementsInHand s₁ = k' :: ks := (if_neg hfull).trans hheld
      obtain ⟨j, rfl⟩ := Nat.exists_eq_add_of_lt hlater
      obtain ⟨s', hrun, hq, hend⟩ := ih (hdue rfl) hhand₁ (n := j + 1) (by omega) (by rw [hcfg]; omega)
      refine ⟨s', (runFor_add hrun₁ (j + 1)).trans hrun, ?_, fun hlast => hend (by rw [hcfg]; omega)⟩
      rw [hq, queueBehind, if_neg hfull, hq₁]
    · obtain ⟨s', hrun, -, hq, -⟩ := h.plays_first hhand hpos hfirst
      have hmore : 1 ≤ playTicks s.cfg.u (k' :: ks) := by rw [playTicks_cons]; omega
      exact ⟨s', hrun, hq, fun hlast => absurd hlast (by omega)⟩

/-- A list's ticks: the durations, and a gap for each element. -/
theorem playTicks_eq (u : Nat) (ks : List Kind) :
    playTicks u ks = (ks.map fun k => units k * u).sum + ks.length * u := by
  induction ks with
  | nil => simp
  | cons k ks ih =>
    rw [playTicks_cons, ih, List.map_cons, List.sum_cons, List.length_cons]
    ring

theorem playTicks_append (u : Nat) (ks ks' : List Kind) :
    playTicks u (ks ++ ks') = playTicks u ks + playTicks u ks' := by
  simp [playTicks]

theorem exists_expandWord_cons (w : Word) : ∃ k ks, expandWord w = k :: ks := by
  by_cases hl : lengthMask w = 0
  · exact ⟨_, _, expandWord_rest hl⟩
  · exact ⟨_, _, expandWord_letter hl⟩

/-! ### until nothing is left -/

theorem nextElement_none {s e : State} (h : nextElement s = (none, e)) : e = s ∧ s.decState = .empty ∧ s.q = [] := by
  rcases nextElement_cases s with ⟨-, he⟩ | ⟨-, he⟩ | ⟨hd, hq, he⟩ | ⟨_, _, -, -, -, he⟩ | ⟨_, _, -, -, -, he⟩ <;>
    cases he.symm.trans h
  exact ⟨rfl, hd, hq⟩

theorem CountsOn.pendingElements {n : Nat} {s s' : State} (h : CountsOn n s s') (hturns : s.turns = []) :
    pendingElements s' = pendingElements s := by
  rw [Machine.pendingElements, h.heldElements, (h.ticksOnly hturns).2, Machine.pendingElements]

/-- Each boundary tick takes one element off what is pending; the one that finds none makes the block idle. -/
theorem exists_drained {s : State} (hinv : Inv s) (hturns : s.turns = []) :
    ∃ n s', runFor n s = .next s' ∧ Drained s' := by
  obtain ⟨s₁, hrun, hs₁, hboundary⟩ := hinv.toCounting.runFor_to_boundary hturns
  have hinv₁ := hinv.runFor hrun
  cases hk : startedNow s₁ with
  | none =>
    obtain ⟨e, he, hstep⟩ := exists_step_idled hinv₁.build hboundary hk
    obtain ⟨rfl, hempty, hq⟩ := nextElement_none he
    exact ⟨untilBoundary s + 1, idled (dropTurn e), by rw [runFor_add hrun, runFor_succ_of_next hstep, runFor_zero],
      hq, hempty, rfl, rfl⟩
  | some k =>
    obtain ⟨e, he, hstep⟩ := exists_step_started hinv₁.build hk
    have hless : (pendingElements (started k (dropTurn e))).length < (pendingElements s).length := by
      rw [← hs₁.pendingElements hturns, ← nextElement_conserves hinv₁.tones he]
      exact Nat.lt_succ_self (pendingElements e).length
    have hnil : (started k (dropTurn e)).turns = [] := by
      rw [step_turns hstep, (hs₁.ticksOnly hturns).1, List.tail_nil]
    obtain ⟨n, s', hrest, hdrained⟩ := exists_drained (hinv₁.step hstep).1 hnil
    exact ⟨untilBoundary s + (n + 1), s', by rw [runFor_add hrun, runFor_succ_of_next hstep, hrest], hdrained⟩
termination_by (pendingElements s).length

end Sys2Proof.Machine

open Sys2Proof Sys2Proof.Machine Sys2Proof.Claims

/-- Settles O45: the word's elements are played one after another, the closing letter gap among them. -/
theorem letterStartToLetterStart : Obligations.LetterStartToLetterStart := by
  refine ⟨fun s w ws h hturns hboundary hempty hq => ?_, fun w u hletter => ?_⟩
  · have hdue : Due s := ⟨h, hturns, hboundary, by simp [hempty]⟩
    obtain ⟨k, ks, hword⟩ := exists_expandWord_cons w
    have hhand : elementsInHand s = k :: ks := by simp [elementsInHand, hempty, hq, hword]
    have hbehind : queueBehind s = ws := by simp [queueBehind, hempty, hq]
    have hunit := wellFormed_unit h
    have hplays {n : Nat} (hpos : 1 ≤ n) := hbehind ▸ hdue.plays hhand hpos
    rw [hword]
    refine ⟨?_, fun n hpos hn => ?_⟩
    · obtain ⟨s', hrun, hq', hend⟩ := hplays (by rw [playTicks_cons]; omega) le_rfl
      obtain ⟨hdue', hempty'⟩ := hend rfl
      exact ⟨s', hrun, hdue'.boundary, hempty', hq'⟩
    · obtain ⟨s', hrun, hq', -⟩ := hplays hpos hn
      exact ⟨s', hrun, hq'⟩
  · show playTicks u (expandWord w) = _
    rw [expandWord, if_neg hletter, List.dropLast_concat, playTicks_append, playTicks_eq]
    simp [units, Nat.add_assoc]

/-- Settles O47, by recursion on the number of pending elements. -/
theorem blockDrainsWhenPushesStop : Obligations.BlockDrainsWhenPushesStop :=
  fun _ hinv hturns => exists_drained hinv hturns

end

section
/-! The sample generator turn by turn (R263 to R267, R269): what a tick makes of the index and the sample, and that every
step keeps the outputs on the table. -/

namespace Sys2Proof.Machine

open Claims

/-! ### the index -/

/-- The addition of `WaveIndex` is INDEX_ADVANCE: one further, and 0 after the last (R264). -/
theorem waveIndex_succ_val {c : Config} (h : c.WellFormed) (idx : WaveIndex c) :
    (idx + 1).val = if idx.val + 1 = 3 * c.u then 0 else idx.val + 1 := by
  have hidx : idx.val < 3 * c.u := index_lt h idx
  have hmod : (idx + 1).val = (idx.val + 1) % (3 * c.u) := nextIndex_eq h idx ▸ nextIndex_val h idx
  rw [hmod]
  split_ifs with hlast
  · rw [hlast, Nat.mod_self]
  · exact Nat.mod_eq_of_lt (by omega)

/-- The index after an element's first tick, which has used index 0 (R263, R264). -/
theorem waveIndex_one_val {c : Config} (h : c.WellFormed) :
    (1 : WaveIndex c).val = if 0 + 1 = 3 * c.u then 0 else 0 + 1 := by
  have hsucc := waveIndex_succ_val h 0
  rwa [zero_add] at hsucc

/-! ### every tick -/

/-- All a completed tick can be, with the whole next state: an element starts, the decoder with nothing to play idles, or
the tick counts on (R222 to R230). -/
theorem step_tick_cases {s s' : State} (hturn : nextTurn s = .tick) (h : step s = .next s') :
    (∃ k e, startedNow s = some k ∧ e.cfg = s.cfg ∧ s' = started k e) ∨
    (startedNow s = none ∧ s' = idled (dropTurn s)) ∨
    (startedNow s = none ∧ s.t ≠ s.nextT + gap s.cfg ∧
      ∃ v, romRead s.cfg s.waveIdx.val = some v ∧ s' = countedOn v s) := by
  have hbuild := (step_cases h).1
  cases hk : startedNow s with
  | some k =>
    obtain ⟨e, he, hstart⟩ := exists_step_started hbuild hk
    cases hstart.symm.trans h
    exact .inl ⟨k, dropTurn e, rfl, (nextElement_queue he).1, rfl⟩
  | none =>
    by_cases hboundary : atBoundary s = true
    · obtain ⟨e, he, hidle⟩ := exists_step_idled hbuild hboundary hk
      obtain ⟨rfl, -, -⟩ := nextElement_none he
      cases hidle.symm.trans h
      exact .inr (.inl ⟨rfl, rfl⟩)
    · have hoff : s.t ≠ s.nextT + gap s.cfg := fun ht =>
        hboundary (atBoundary_iff.2 ⟨hturn, branch_boundary_of_gapEnd hbuild ht⟩)
      obtain ⟨v, hv⟩ := exists_romRead hbuild s.waveIdx
      cases (step_countedOn hbuild hturn hv hoff).symm.trans h
      exact .inr (.inr ⟨rfl, hoff, v, hv, rfl⟩)

/-! ### every step -/

/-- The outputs' relation to the table reads neither the queue and its producer, nor `dac_valid`, nor the schedule. -/
theorem OutputFollowsTable.offTick {s : State} (h : OutputFollowsTable s) {q toPush : List Word} {ring : Ring}
    {valid : Bool} {turns : List Turn} :
    OutputFollowsTable { s with q := q, ring := ring, toPush := toPush, dacValid := valid, turns := turns } :=
  ⟨h.channels, h.shown, h.silent, h.sample, h.index⟩

theorem outputFollowsTable_resetAll (s : State) : OutputFollowsTable (resetAll s) :=
  ⟨rfl, rfl, fun _ => rfl, nofun, nofun⟩

/-- A boundary tick sets the outputs afresh and a reset clears them; any other tick plays the entry at its offset, and
between ticks they hold (R265, R267, R269, R320). -/
theorem OutputFollowsTable.step {s s' : State} (h : OutputFollowsTable s) (hinv : Inv s) (hstep : step s = .next s') :
    OutputFollowsTable s' := by
  obtain ⟨hbuild, ⟨hturn, -⟩ | ⟨-, rfl⟩ | ⟨-, rfl⟩ | ⟨a, b, -, rfl⟩⟩ := step_cases hstep
  · rcases step_tick_cases hturn hstep with ⟨k, e, -, hcfg, rfl⟩ | ⟨-, rfl⟩ | ⟨-, hoff, v, hv, rfl⟩
    · exact outputFollowsTable_started (hcfg ▸ hbuild) k
    · exact outputFollowsTable_idled (dropTurn s)
    · have hcount := hinv.toCounting
      exact h.counted hcount hv (Nat.pos_of_ne_zero (mt hcount.gapEnd_iff.2 hoff))
  · obtain ⟨q, ring, toPush, hframe⟩ := producerTurn_frame (dropTurn s)
    rw [hframe]
    exact h.offTick
  · exact h.offTick
  · exact outputFollowsTable_resetAll (dropTurn s)

end Sys2Proof.Machine

open Sys2Proof Sys2Proof.Machine Sys2Proof.Claims

/-- Settles O34: every kind of turn keeps the relation. -/
theorem outputIsTheTableAtTheToneOffset : Obligations.OutputIsTheTableAtTheToneOffset :=
  fun _ _ hinv h hstep => h.step hinv hstep

/-- Settles O53: the start of an element uses index 0, an idle poll and a tick that counts on use `wave_idx`. -/
theorem indexRunsOnEveryTick : Obligations.IndexRunsOnEveryTick := by
  intro s s' hturn hstep
  have hbuild := (step_cases hstep).1
  have hcfg := step_cfg hstep
  have hlt : s'.waveIdx.val < 3 * s.cfg.u := (index_lt (hcfg ▸ hbuild) s'.waveIdx).trans_eq (congrArg tableLen hcfg)
  refine ⟨_, rfl, ?_⟩
  rcases step_tick_cases hturn hstep with ⟨k, e, hk, he, rfl⟩ | ⟨hk, rfl⟩ | ⟨hk, -, v, hv, rfl⟩ <;> rw [hk]
  · have hnext : (1 : WaveIndex e.cfg).val = if 0 + 1 = 3 * s.cfg.u then 0 else 0 + 1 :=
      he ▸ waveIndex_one_val (he ▸ hbuild)
    exact ⟨hnext, hlt, fun _ => romRead_zero hbuild, fun _ => rfl, rfl, rfl⟩
  · exact ⟨waveIndex_succ_val hbuild s.waveIdx, hlt, nofun, fun _ => rfl, rfl, rfl⟩
  · refine ⟨waveIndex_succ_val hbuild s.waveIdx, hlt, fun hon => ?_, fun hoff => ?_, rfl, rfl⟩
    · exact hv.trans (congrArg some (if_pos hon).symm)
    · exact if_neg (ne_true_of_eq_false hoff)

/-- Settles O37: the quiet cycle writes `dac_valid` alone, and the schedule is one turn shorter. -/
theorem betweenTicksEverythingHolds : Obligations.BetweenTicksEverythingHolds :=
  fun _ hbuild hturn => step_quiet hbuild hturn

end

section
/-! That the block has no exceptions (R290): in a well-formed build every instruction and every dutiful turn answers a next
state, and what the model refuses is a broken build or a broken duty (R294). -/

namespace Sys2Proof.Machine

open Claims

/-! ### instructions -/

/-- In a well-formed build a tick that starts an element is an element start in full (R225). -/
theorem StartsIn.exists_started {s : State} {o : Outcome} (h : StartsIn s o) (hbuild : s.cfg.WellFormed) :
    ∃ k e, o = .next (started k e) := by
  obtain ⟨k, e, rfl, he⟩ := h
  have hcfg : e.cfg = s.cfg := by rw [he]
  exact ⟨k, e, startTick_eq (hcfg ▸ hbuild) k⟩

/-- Every instruction starts an element, but for DEC_EMPTY with nothing queued, which idles (R224 to R226). -/
theorem exec_started_or_idled {s : State} (h : s.cfg.WellFormed) (i : Instr) :
    (∃ k e, exec i s = .next (started k e)) ∨ exec i s = .next (idled s) := by
  by_cases hi : i = .decEmpty
  · subst hi
    cases hq : s.q with
    | nil => exact .inr (by rw [exec_decEmpty_nil hq, idleTick_eq h])
    | cons w ws =>
      rw [exec_decEmpty_cons hq]
      exact .inl ((wordTick_starts w (fifoDrop s)).exists_started h)
  · exact .inl ((exec_starts i hi s).exists_started h)

/-! ### turns -/

/-- In a well-formed build every tick is taken: it counts on, or it plays the decoder's answer (R222, R266). -/
theorem exists_step_tick {s : State} (h : s.cfg.WellFormed) (hturn : nextTurn s = .tick) : ∃ s', step s = .next s' := by
  by_cases hgap : s.t = s.nextT + gap s.cfg
  · rcases he : nextElement (dropTurn s) with ⟨_ | k, e⟩
    · exact ⟨_, step_of_none h hturn hgap he⟩
    · exact ⟨_, step_of_some h hturn hgap he⟩
  · obtain ⟨v, hv⟩ := exists_romRead h s.waveIdx
    exact ⟨_, step_countedOn h hturn hv hgap⟩

/-- In a well-formed build a reset turn resets both sides (R320, R322). -/
theorem step_reset {s : State} {a b : Bool} (h : s.cfg.WellFormed) (hturn : nextTurn s = .reset a b) :
    step s = .next (resetAll (dropTurn s)) := by
  rw [step_eq_takeTurn h, hturn, takeTurn]

/-- In a well-formed build the next turn is taken unless the host breaks a duty on it (R290, R294). -/
theorem exists_step_of_dutiful {s : State} (h : s.cfg.WellFormed) (hduty : (nextTurn s).dutiful = true) :
    ∃ s', step s = .next s' := by
  cases hturn : nextTurn s with
  | tick => exact exists_step_tick h hturn
  | push => exact ⟨_, step_push h hturn⟩
  | quiet => exact ⟨_, step_quiet h hturn⟩
  | reset a b => exact ⟨_, step_reset h hturn⟩
  | misuse m => simp [hturn, Turn.dutiful] at hduty

/-- When the schedule is used up ticks go on, so what holds of a tick and of every scheduled turn holds of the next. -/
theorem nextTurn_forall {p : Turn → Bool} {s : State} (htick : p .tick = true) (h : ∀ turn ∈ s.turns, p turn = true) :
    p (nextTurn s) = true := by
  unfold nextTurn
  split
  · exact htick
  · next turn rest hs => exact h turn (by simp [hs])

/-- A well-formed build whose host keeps its duties runs for any number of steps: no step writes the build, and the
schedule a step leaves is the rest of the one it found. -/
theorem exists_runFor_of_dutiful {s : State} (h : s.cfg.WellFormed) (hduty : ∀ turn ∈ s.turns, turn.dutiful = true)
    (n : Nat) : ∃ s', runFor n s = .next s' := by
  induction n generalizing s with
  | zero => exact ⟨s, rfl⟩
  | succ n ih =>
    obtain ⟨s₁, hstep⟩ := exists_step_of_dutiful h (nextTurn_forall rfl hduty)
    rw [runFor_succ_of_next hstep]
    exact ih (step_cfg hstep ▸ h) (step_turns hstep ▸ turns_tail_forall hduty)

/-! ### refusals -/

/-- A build that breaks a constraint of R10 takes no step (R294; U6). -/
theorem step_of_not_wellFormed {s : State} (h : ¬ s.cfg.WellFormed) : step s = .refused .misconfigured := if_neg h

/-- A breach of duty is refused by its name (R294; U2 to U4). -/
theorem step_misuse {s : State} {m : Misuse} (h : s.cfg.WellFormed) (hturn : nextTurn s = .misuse m) :
    step s = .refused (.hostMisuse m) := by
  rw [step_eq_takeTurn h, hturn, takeTurn]

end Sys2Proof.Machine

open Sys2Proof Sys2Proof.Machine Sys2Proof.Claims

/-- Settles O39, by induction on the number of steps: of the invariant a step needs the well-formed build alone, which no
step writes. -/
theorem dutifulRunsNeverStop : Obligations.DutifulRunsNeverStop :=
  fun n _ hinv hduty => exists_runFor_of_dutiful hinv.build hduty n

/-- Settles O15: an instruction starts an element or idles, and both set `t` to 1 and `dac_valid` to 1. -/
theorem everyInstructionCompletes : Obligations.EveryInstructionCompletes := by
  intro i s h
  rcases exec_started_or_idled h i with ⟨k, e, hexec⟩ | hexec
  · exact ⟨started k e, hexec, rfl, rfl⟩
  · exact ⟨idled s, hexec, rfl, rfl⟩

/-- Settles O38: the build is tested before the turn is taken, and a turn of misuse is refused as it is taken. -/
theorem brokenBuildsAndDutiesAreRefused : Obligations.BrokenBuildsAndDutiesAreRefused :=
  ⟨fun _ h => step_of_not_wellFormed h, fun _ _ h hturn => step_misuse h hturn⟩

end

section
/-! Reset (R320 to R322): what a scheduled reset turn answers does not depend on the levels it carries, and is the reset
state of the same build with the queue memory and the inputs kept. -/

namespace Sys2Proof.Machine

theorem nextTurn_of_turns {s : State} {turn : Turn} {rest : List Turn} (h : s.turns = turn :: rest) :
    nextTurn s = turn := by simp [nextTurn, h]

/-- Whatever the levels, a scheduled reset turn answers the reset state of the build, with the queue memory, the
producer's words and the rest of the schedule (R320, R321). -/
theorem step_scheduledReset {s : State} {a b : Bool} {rest : List Turn} (h : s.cfg.WellFormed)
    (hturns : s.turns = .reset a b :: rest) :
    step s = .next { State.resetOf s.cfg with ring := s.ring.clear, toPush := s.toPush, turns := rest } := by
  rw [step_reset h (nextTurn_of_turns hturns), resetAll, dropTurn, hturns, List.tail_cons]

/-- While `wr_rst` is asserted the producer is granted nothing (R321). -/
@[simp] theorem wrReady_of_wrRst (s : State) : wrReady true s = false := rfl

/-- An empty queue has room in every well-formed build, whose DEPTH is at least 1 (R10, R174). -/
theorem wrReady_of_q_nil {s : State} (h : s.cfg.WellFormed) (hq : s.q = []) : wrReady false s = true :=
  wrReady_eq_true_iff.2 (by rw [hq]; exact wellFormed_depth h)

end Sys2Proof.Machine

open Sys2Proof Sys2Proof.Machine Sys2Proof.Claims

/-- Settles O1: the registers of `State.reset` are closed values, and a reset turn answers the reset state of its
build. -/
theorem resetPutsEveryRegisterAtItsResetValue : Obligations.ResetPutsEveryRegisterAtItsResetValue := by
  refine ⟨by decide, fun s a b rest h hturns => ⟨_, step_scheduledReset h hturns, rfl, ?_, ?_⟩⟩
  · exact wrReady_of_q_nil h rfl
  · exact rdEmpty_nil rfl

/-- Settles O2: the answer of a reset turn is one state for all four levels of `sample_tick` and `wr_valid`. -/
theorem resetBeatsTickAndPush : Obligations.ResetBeatsTickAndPush := by
  refine ⟨wrReady_of_wrRst, fun s a b rest h hturns => ⟨?_, ?_⟩⟩
  · calc step s
        = .next { State.resetOf s.cfg with ring := s.ring.clear, toPush := s.toPush, turns := rest } :=
          step_scheduledReset h hturns
      _ = step { s with turns := .reset false false :: rest } :=
          (step_scheduledReset (s := { s with turns := .reset false false :: rest }) h rfl).symm
  · exact ⟨_, step_scheduledReset h hturns, rfl, rfl, rfl, rfl, rfl, rfl, rfl⟩

end
